-- ==== Sys2Proof/Word.lean ====
section
/-! DEFINITION. The plain types of the W440: bytes, addresses, the numbers of ports, ranks, windows and
entries, and the small fixed-size collections the state is built of. -/

namespace Sys2Proof

/-- A register or frame byte (00_scope.md section 0.5: registers are 8 bits wide). -/
abbrev Byte := BitVec 8

/-- A 32-bit byte address (00_scope.md section 0.5). -/
abbrev Addr := BitVec 32

/-- A port, 0 to 3. -/
abbrev Port := Fin 4

/-- A rank, 0 (slot A) or 1 (slot B). -/
abbrev RankId := Fin 2

/-- A window, 0 to 7 (R63). -/
abbrev WindowId := Fin 8

/-- The number of a request-table entry, 0 to 15 (R1). -/
abbrev Slot := Fin 16

/-- The four ports, in ascending order. -/
def allPorts : List Port := [0, 1, 2, 3]

/-- One value for each rank. -/
structure PerRank (α : Type) where
  r0 : α
  r1 : α
  deriving DecidableEq, Repr

/-- The value of rank `r`. -/
def PerRank.get {α : Type} (q : PerRank α) (r : RankId) : α :=
  match r with
  | 0 => q.r0
  | 1 => q.r1

/-- The collection with rank `r`'s value replaced. -/
def PerRank.set {α : Type} (q : PerRank α) (r : RankId) (v : α) : PerRank α :=
  match r with
  | 0 => { q with r0 := v }
  | 1 => { q with r1 := v }

/-- One value for each port. -/
structure PerPort (α : Type) where
  p0 : α
  p1 : α
  p2 : α
  p3 : α
  deriving DecidableEq, Repr

/-- The value of port `p`. -/
def PerPort.get {α : Type} (q : PerPort α) (p : Port) : α :=
  match p with
  | 0 => q.p0
  | 1 => q.p1
  | 2 => q.p2
  | 3 => q.p3

/-- The collection with port `p`'s value replaced. -/
def PerPort.set {α : Type} (q : PerPort α) (p : Port) (v : α) : PerPort α :=
  match p with
  | 0 => { q with p0 := v }
  | 1 => { q with p1 := v }
  | 2 => { q with p2 := v }
  | 3 => { q with p3 := v }

/-- Every port's value passed through `f`. -/
def PerPort.map {α β : Type} (q : PerPort α) (f : α → β) : PerPort β :=
  { p0 := f q.p0, p1 := f q.p1, p2 := f q.p2, p3 := f q.p3 }

/-- Eight values: the bytes of a word (byte 0 at the lowest address), or the eight windows. -/
structure Oct (α : Type) where
  x0 : α
  x1 : α
  x2 : α
  x3 : α
  x4 : α
  x5 : α
  x6 : α
  x7 : α
  deriving DecidableEq, Repr

/-- The value numbered `i`. -/
def Oct.get {α : Type} (q : Oct α) (i : Fin 8) : α :=
  match i with
  | 0 => q.x0
  | 1 => q.x1
  | 2 => q.x2
  | 3 => q.x3
  | 4 => q.x4
  | 5 => q.x5
  | 6 => q.x6
  | 7 => q.x7

/-- The collection with the value numbered `i` replaced. -/
def Oct.set {α : Type} (q : Oct α) (i : Fin 8) (v : α) : Oct α :=
  match i with
  | 0 => { q with x0 := v }
  | 1 => { q with x1 := v }
  | 2 => { q with x2 := v }
  | 3 => { q with x3 := v }
  | 4 => { q with x4 := v }
  | 5 => { q with x5 := v }
  | 6 => { q with x6 := v }
  | 7 => { q with x7 := v }

/-- The eight values in order. -/
def Oct.toList {α : Type} (q : Oct α) : List α :=
  [q.x0, q.x1, q.x2, q.x3, q.x4, q.x5, q.x6, q.x7]

/-- Each of the eight values passed through `f`. -/
def Oct.map {α β : Type} (q : Oct α) (f : α → β) : Oct β :=
  { x0 := f q.x0, x1 := f q.x1, x2 := f q.x2, x3 := f q.x3,
    x4 := f q.x4, x5 := f q.x5, x6 := f q.x6, x7 := f q.x7 }

/-- The eight values `f 0` to `f 7`. -/
def Oct.ofFn {α : Type} (f : Fin 8 → α) : Oct α :=
  { x0 := f 0, x1 := f 1, x2 := f 2, x3 := f 3, x4 := f 4, x5 := f 5, x6 := f 6, x7 := f 7 }

/-- The same value eight times. -/
def Oct.all {α : Type} (v : α) : Oct α :=
  Oct.ofFn (fun _ => v)

end Sys2Proof
end

