-- ==== Sys2Proof/Syntax.lean ====
section
/-! DEFINITION. The commands of the W440: one constructor of `Instr` for each row of
spec/opcode_table.json, with the row's operands. -/

namespace Sys2Proof

/-- One byte of PUT or PUT_SYNC data as it arrives on a link: the data byte, its parity bit and its
mask bit (R151). -/
structure LinkByte where
  data : Byte
  parity : Bool
  mask : Bool
  deriving DecidableEq, Repr

/-- One word of PUT or PUT_SYNC data: 8 data bytes with their parity and mask bits (R151). -/
abbrev LinkWord := Oct LinkByte

/-- The four counters of a port (R179). -/
inductive PortCounter where
  | full
  | discard
  | hostParity
  | deliveredPoison
  deriving DecidableEq, Repr

/-- The four counters of the device (R179). -/
inductive DeviceCounter where
  | suppressedPoison
  | overrun
  | forcedRefresh
  | pullInRefresh
  deriving DecidableEq, Repr

/-- A value read through a snapshot (R171): one of the twenty counters, or a rank's refresh row
counter. -/
inductive CounterId where
  | port (p : Port) (c : PortCounter)
  | device (c : DeviceCounter)
  | row (r : RankId)
  deriving DecidableEq, Repr

/-- The five staging bytes of a window record, in the order of their indices (R172). -/
inductive StagingField where
  | baseLow
  | baseHigh
  | limitLow
  | limitHigh
  | rights
  deriving DecidableEq, Repr

/-- The commands. The docstring of each names its row of spec/opcode_table.json. -/
inductive Instr where
  /-- FETCH (R28): the frame's port, tag, address and length in words. -/
  | fetch (p : Port) (tag : Byte) (addr : Addr) (len : Byte)
  /-- PUT (R41): the frame's port, tag, address, length and data part. -/
  | put (p : Port) (tag : Byte) (addr : Addr) (len : Byte) (data : List LinkWord)
  /-- PUT_SYNC (R28). -/
  | putSync (p : Port) (tag : Byte) (addr : Addr) (len : Byte) (data : List LinkWord)
  /-- CLAIM (R28): the length is in units of 64 bytes. -/
  | claim (p : Port) (tag : Byte) (addr : Addr) (len : Byte)
  /-- DROP (R34): the length byte is carried but not examined (R33). -/
  | drop (p : Port) (tag : Byte) (addr : Addr) (len : Byte)
  /-- STATUS (R31): address and length are carried but not examined (R151). -/
  | status (p : Port) (tag : Byte) (addr : Addr) (len : Byte)
  /-- GARBLED_FRAME (R29): the tag as it was received, 0 where the frame held no third byte (R151). -/
  | garbledFrame (p : Port) (tag : Byte)
  /-- UNNAMED_KIND_FRAME (R33): a frame of a kind code that names no kind. -/
  | unnamedKindFrame (p : Port) (kind : Byte) (tag : Byte) (addr : Addr) (len : Byte)
  /-- DECISION (R99). -/
  | decision
  /-- ACCESS_READ_COMPLETE (R132). -/
  | accessReadComplete
  /-- ACCESS_WRITE_COMPLETE (R51). -/
  | accessWriteComplete
  /-- REFRESH_COMPLETE (R125). -/
  | refreshComplete
  /-- INITIALIZATION_REFRESH_COMPLETE (R119). -/
  | initializationRefreshComplete
  /-- CLOSE_COMPLETE (R133). -/
  | closeComplete
  /-- DISCARD_TIMER_EXPIRY (R19): the entry whose timer expires. -/
  | discardTimerExpiry (n : Slot)
  /-- HOLD_TIMER_EXPIRY (R88): the port whose hold's timer expires. -/
  | holdTimerExpiry (p : Port)
  /-- INTERVAL_TIMER_EXPIRY (R123). -/
  | intervalTimerExpiry (r : RankId)
  /-- PAUSE_TIMER_EXPIRY (R118). -/
  | pauseTimerExpiry (r : RankId)
  /-- ROW_OPEN_TIMER_EXPIRY (R129). -/
  | rowOpenTimerExpiry (r : RankId)
  /-- PORT_RESET_ASSERT (R160). -/
  | portResetAssert (p : Port)
  /-- PORT_RESET_RELEASE (R160). -/
  | portResetRelease (p : Port)
  /-- POWER_ON_RESET_ASSERT (R186). -/
  | powerOnResetAssert
  /-- POWER_ON_RESET_RELEASE (R187): the address-select pin and the presence codes of slots A and B
  as sampled at the release. -/
  | powerOnResetRelease (addressSelect : Bool) (codeA codeB : BitVec 2)
  /-- ENABLE (R156). -/
  | enable (p : Port)
  /-- DRAIN (R156). -/
  | drain (p : Port)
  /-- REVOKE (R89). -/
  | revoke (p : Port)
  /-- REFRESH_PAUSE (R109). -/
  | refreshPause
  /-- REFRESH_RESUME (R109). -/
  | refreshResume
  /-- CLEAR_DOUBT (R127). -/
  | clearDoubt (r : RankId)
  /-- CLEAR_COUNTERS (R175). -/
  | clearCounters
  /-- WARM_RESET (R180). -/
  | warmReset
  /-- UNKNOWN_COMMAND (R174): the command byte, which names no command. -/
  | unknownCommand (value : Byte)
  /-- DEVICE_FLAGS_WRITE (R177). -/
  | deviceFlagsWrite (value : Byte)
  /-- WINDOW_STAGING_WRITE (R67). -/
  | windowStagingWrite (w : WindowId) (field : StagingField) (value : Byte)
  /-- WINDOW_CONTROL_WRITE (R68). -/
  | windowControlWrite (w : WindowId) (value : Byte)
  /-- DEVICE_FLAG_MASK_WRITE (R178). -/
  | deviceFlagMaskWrite (value : Byte)
  /-- EVENT_MASK_WRITE (R166). -/
  | eventMaskWrite (p : Port) (value : Byte)
  /-- REGISTER_WRITE (R170): a write to an index that has no row of its own. -/
  | registerWrite (index value : Byte)
  /-- COUNTER_LOW_BYTE_READ (R171). -/
  | counterLowByteRead (c : CounterId)
  /-- FRAME_BEGIN (R153). -/
  | frameBegin (p : Port)
  /-- ANSWER_SENT (R153). -/
  | answerSent (p : Port)
  /-- INDEX_POINTER_SET (R169). -/
  | indexPointerSet (value : Byte)
  deriving DecidableEq, Repr

end Sys2Proof
end

