-- ==== Sys2Proof/WellFormed.lean ====
section
/-! DEFINITION. When a command's operands are those of its row of spec/opcode_table.json. Every other
operand has a type that admits only its values; a frame's address, length and data may be anything,
since the form step answers them (R33). The meanings are defined on ill-formed commands too
(notes/assumptions/14.md). -/

namespace Sys2Proof

/-- A kind code that names none of the six kinds: 0, or 7 to 255 (R151). -/
def namesNoKind (kind : Byte) : Bool :=
  kind.toNat == 0 || 7 ≤ kind.toNat

/-- A command byte that names no command: code 0x0 or 0x9 to 0xF, or CLEAR_DOUBT with argument 2 or 3
(R174). -/
def namesNoCommand (value : Byte) : Bool :=
  let code := value.toNat / 16
  code == 0 || 9 ≤ code || (code == 6 && 2 ≤ value.toNat % 4)

/-- An index whose write has a row of its own: the device flags, their mask, the command register, the
event masks, and the window records (R172). -/
def hasOwnWriteRow (index : Byte) : Bool :=
  let n := index.toNat
  (2 ≤ n && n ≤ 4) || (0x14 ≤ n && n ≤ 0x17) || (0x30 ≤ n && n ≤ 0x5F)

/-- The operands are those of the command's row: a write frame that passed the header check brings as
many words as its length byte says (R151), an unnamed kind is none of the six, an unknown command
names no command, and a register write is to an index with no row of its own. -/
def WellFormed (i : Instr) : Bool :=
  match i with
  | .put _ _ _ len data => data.length == len.toNat
  | .putSync _ _ _ len data => data.length == len.toNat
  | .unnamedKindFrame _ kind _ _ _ => namesNoKind kind
  | .unknownCommand value => namesNoCommand value
  | .registerWrite index _ => !hasOwnWriteRow index
  | .fetch _ _ _ _ | .claim _ _ _ _ | .drop _ _ _ _ | .status _ _ _ _ | .garbledFrame _ _
  | .decision | .accessReadComplete | .accessWriteComplete | .refreshComplete
  | .initializationRefreshComplete | .closeComplete | .discardTimerExpiry _ | .holdTimerExpiry _
  | .intervalTimerExpiry _ | .pauseTimerExpiry _ | .rowOpenTimerExpiry _ | .portResetAssert _
  | .portResetRelease _ | .powerOnResetAssert | .powerOnResetRelease _ _ _ | .enable _ | .drain _
  | .revoke _ | .refreshPause | .refreshResume | .clearDoubt _ | .clearCounters | .warmReset
  | .deviceFlagsWrite _ | .windowStagingWrite _ _ _ | .windowControlWrite _ _
  | .deviceFlagMaskWrite _ | .eventMaskWrite _ _ | .counterLowByteRead _ | .frameBegin _
  | .answerSent _ | .indexPointerSet _ => true

end Sys2Proof
end

