-- ==== Sys2Proof/Decode.lean ====
section
/-! DEFINITION. From what the outside sends to commands, and back: `decodeTableWord` (no row of
spec/opcode_table.json gives bits), the request frames of a link (R151, R152), the register map (R172),
the command byte (R174) and the bytes of an I2C write transaction (R169). -/

namespace Sys2Proof

/-- The command that a table word spells. No row of spec/opcode_table.json gives any bits, so no word
spells a command (notes/assumptions/17.md). -/
def decodeTableWord (_nbits _w : Nat) : Option Instr :=
  none

/-! ### Request frames (R151, R152) -/

/-- Little-endian: the 32-bit address of four bytes, lowest first (R151). -/
def addrOfBytes (b0 b1 b2 b3 : Byte) : Addr :=
  b3 ++ b2 ++ b1 ++ b0

/-- Byte `i` (0 to 3, lowest first) of an address (R151). -/
def addrByte (a : Addr) (i : Nat) : Byte :=
  a.extractLsb' (8 * i) 8

/-- The bytewise XOR of a list of bytes (R152). -/
def xorBytes (bs : List Byte) : Byte :=
  bs.foldl (· ^^^ ·) 0

/-- The kind codes of R151. -/
def codeFetch : Byte := 1
/-- The kind code of PUT (R151). -/
def codePut : Byte := 2
/-- The kind code of PUT_SYNC (R151). -/
def codePutSync : Byte := 3
/-- The kind code of CLAIM (R151). -/
def codeClaim : Byte := 4
/-- The kind code of DROP (R151). -/
def codeDrop : Byte := 5
/-- The kind code of STATUS (R151). -/
def codeStatus : Byte := 6

/-- The size in bytes that a header calls for (R151). -/
def frameSize (kind len : Byte) : Nat :=
  if kind = codePut ∨ kind = codePutSync then 8 + 10 * len.toNat else 8

/-- One word of a data part: data bytes 0 to 7, the parity byte, the mask byte (R151). -/
def wordOfBytes (bs : List Byte) : LinkWord :=
  Oct.ofFn fun i =>
    { data := bs.getD i.val 0
      parity := (bs.getD 8 0).getLsbD i.val
      mask := (bs.getD 9 0).getLsbD i.val }

/-- The first `n` words of a data part (R151). -/
def wordsOfBytes : Nat → List Byte → List LinkWord
  | 0, _ => []
  | n + 1, bs => wordOfBytes (bs.take 10) :: wordsOfBytes n (bs.drop 10)

/-- A byte whose bit `i` is `f i`. -/
def byteOfBits (f : Fin 8 → Bool) : Byte :=
  let bit (i : Fin 8) : Byte := if f i then BitVec.ofNat 8 (2 ^ i.val) else 0
  bit 0 ||| bit 1 ||| bit 2 ||| bit 3 ||| bit 4 ||| bit 5 ||| bit 6 ||| bit 7

/-- The 10 bytes of a word of a data part (R151). -/
def bytesOfWord (w : LinkWord) : List Byte :=
  w.toList.map (·.data) ++
    [byteOfBits fun i => (w.get i).parity, byteOfBits fun i => (w.get i).mask]

/-- The command that a request frame of port `p` is, once its last byte has been received: too short
or of the wrong size, or failing the header check, a garbled frame with the tag it held (R151, R152);
otherwise a frame of the kind its code names, or of an unnamed kind. -/
def frameOfBytes (p : Port) (bs : List Byte) : Instr :=
  let kind := bs.getD 0 0
  let len := bs.getD 1 0
  let tag := bs.getD 2 0
  let addr := addrOfBytes (bs.getD 3 0) (bs.getD 4 0) (bs.getD 5 0) (bs.getD 6 0)
  if bs.length < 8 ∨ bs.length ≠ frameSize kind len ∨ xorBytes (bs.take 8) ≠ 0 then
    .garbledFrame p tag
  else if kind = codeFetch then .fetch p tag addr len
  else if kind = codePut then .put p tag addr len (wordsOfBytes len.toNat (bs.drop 8))
  else if kind = codePutSync then .putSync p tag addr len (wordsOfBytes len.toNat (bs.drop 8))
  else if kind = codeClaim then .claim p tag addr len
  else if kind = codeDrop then .drop p tag addr len
  else if kind = codeStatus then .status p tag addr len
  else .unnamedKindFrame p kind tag addr len

/-- The header of a request frame, its check byte chosen so that the XOR of bytes 0 to 7 is zero
(R152). -/
def headerBytes (kind len tag : Byte) (addr : Addr) : List Byte :=
  let body := [kind, len, tag, addrByte addr 0, addrByte addr 1, addrByte addr 2, addrByte addr 3]
  body ++ [xorBytes body]

/-- The request frame of a command that a host sends as a frame passing the header check, with its
port; none for every other command. -/
def bytesOfFrame (i : Instr) : Option (Port × List Byte) :=
  match i with
  | .fetch p tag addr len => some (p, headerBytes codeFetch len tag addr)
  | .put p tag addr len data =>
    some (p, headerBytes codePut len tag addr ++ data.flatMap bytesOfWord)
  | .putSync p tag addr len data =>
    some (p, headerBytes codePutSync len tag addr ++ data.flatMap bytesOfWord)
  | .claim p tag addr len => some (p, headerBytes codeClaim len tag addr)
  | .drop p tag addr len => some (p, headerBytes codeDrop len tag addr)
  | .status p tag addr len => some (p, headerBytes codeStatus len tag addr)
  | .unnamedKindFrame p kind tag addr len => some (p, headerBytes kind len tag addr)
  | .garbledFrame _ _ | .decision | .accessReadComplete | .accessWriteComplete | .refreshComplete
  | .initializationRefreshComplete | .closeComplete | .discardTimerExpiry _ | .holdTimerExpiry _
  | .intervalTimerExpiry _ | .pauseTimerExpiry _ | .rowOpenTimerExpiry _ | .portResetAssert _
  | .portResetRelease _ | .powerOnResetAssert | .powerOnResetRelease _ _ _ | .enable _ | .drain _
  | .revoke _ | .refreshPause | .refreshResume | .clearDoubt _ | .clearCounters | .warmReset
  | .unknownCommand _ | .deviceFlagsWrite _ | .windowStagingWrite _ _ _ | .windowControlWrite _ _
  | .deviceFlagMaskWrite _ | .eventMaskWrite _ _ | .registerWrite _ _ | .counterLowByteRead _
  | .frameBegin _ | .answerSent _ | .indexPointerSet _ => none

/-! ### The register map (R172) -/

/-- What an index of the register file names (R172). -/
inductive Register where
  | deviceCode
  | revisionCode
  | deviceFlags
  | deviceMask
  | command
  | pauseState
  | discardSetting
  | holdTime
  | interval
  | threshold
  | streakLimit
  | pagePolicy
  | pullIn
  | limit (p : Port)
  | eventMask (p : Port)
  | portState (p : Port)
  | heldCount (p : Port)
  | queueDepth (p : Port)
  | rankState (r : RankId)
  | balance (r : RankId)
  | counterLow (c : CounterId)
  | counterHigh (c : CounterId)
  | doubtPresence (r : RankId)
  | staging (w : WindowId) (f : StagingField)
  | control (w : WindowId)
  | unassigned
  deriving DecidableEq, Repr

/-- The staging field at an offset within a window record, 0 to 4 (R172). -/
def stagingFieldAt (k : Nat) : StagingField :=
  match k with
  | 0 => .baseLow
  | 1 => .baseHigh
  | 2 => .limitLow
  | 3 => .limitHigh
  | _ => .rights

/-- The offset of a staging field within its window record (R172). -/
def StagingField.offset (f : StagingField) : Nat :=
  match f with
  | .baseLow => 0
  | .baseHigh => 1
  | .limitLow => 2
  | .limitHigh => 3
  | .rights => 4

/-- A port's counter by its place in the port's group (R172). -/
def portCounterAt (k : Nat) : PortCounter :=
  match k with
  | 0 => .full
  | 1 => .discard
  | 2 => .hostParity
  | _ => .deliveredPoison

/-- The place of a counter in its port's group (R172). -/
def PortCounter.place (c : PortCounter) : Nat :=
  match c with
  | .full => 0
  | .discard => 1
  | .hostParity => 2
  | .deliveredPoison => 3

/-- A device counter by its place in the group at 0x80 (R172). -/
def deviceCounterAt (k : Nat) : DeviceCounter :=
  match k with
  | 0 => .suppressedPoison
  | 1 => .overrun
  | 2 => .forcedRefresh
  | _ => .pullInRefresh

/-- The place of a device counter in the group at 0x80 (R172). -/
def DeviceCounter.place (c : DeviceCounter) : Nat :=
  match c with
  | .suppressedPoison => 0
  | .overrun => 1
  | .forcedRefresh => 2
  | .pullInRefresh => 3

/-- A number as a port, modulo 4. -/
def portOf (n : Nat) : Port :=
  Fin.ofNat 4 n

/-- A number as a rank, modulo 2. -/
def rankOf (n : Nat) : RankId :=
  Fin.ofNat 2 n

/-- A number as a window, modulo 8. -/
def windowOf (n : Nat) : WindowId :=
  Fin.ofNat 8 n

/-- The low or high byte index of a two-byte value, by the parity of its offset. -/
def counterByte (c : CounterId) (offset : Nat) : Register :=
  if offset % 2 = 0 then .counterLow c else .counterHigh c

/-- The register at an index (R172). -/
def registerAt (index : Byte) : Register :=
  let n := index.toNat
  if n = 0x00 then .deviceCode
  else if n = 0x01 then .revisionCode
  else if n = 0x02 then .deviceFlags
  else if n = 0x03 then .deviceMask
  else if n = 0x04 then .command
  else if n = 0x05 then .pauseState
  else if n = 0x06 then .discardSetting
  else if n = 0x07 then .holdTime
  else if n = 0x08 then .interval
  else if n = 0x09 then .threshold
  else if n = 0x0A then .streakLimit
  else if n = 0x0B then .pagePolicy
  else if n = 0x0C then .pullIn
  else if n < 0x10 then .unassigned
  else if n < 0x14 then .limit (portOf (n - 0x10))
  else if n < 0x18 then .eventMask (portOf (n - 0x14))
  else if n < 0x24 then
    let k := n - 0x18
    if k % 3 = 0 then .portState (portOf (k / 3))
    else if k % 3 = 1 then .heldCount (portOf (k / 3))
    else .queueDepth (portOf (k / 3))
  else if n < 0x2E then
    let k := n - 0x24
    if k % 5 = 0 then .rankState (rankOf (k / 5))
    else if k % 5 = 1 then .balance (rankOf (k / 5))
    else if k % 5 = 2 then .counterLow (.row (rankOf (k / 5)))
    else if k % 5 = 3 then .counterHigh (.row (rankOf (k / 5)))
    else .doubtPresence (rankOf (k / 5))
  else if n < 0x30 then .unassigned
  else if n < 0x60 then
    let k := n - 0x30
    if k % 6 = 5 then .control (windowOf (k / 6))
    else .staging (windowOf (k / 6)) (stagingFieldAt (k % 6))
  else if n < 0x80 then
    let k := n - 0x60
    counterByte (.port (portOf (k / 8)) (portCounterAt (k % 8 / 2))) k
  else if n < 0x88 then
    let k := n - 0x80
    counterByte (.device (deviceCounterAt (k / 2))) k
  else .unassigned

/-- The index of a counter's low byte (R172). -/
def counterIndex (c : CounterId) : Nat :=
  match c with
  | .port p k => 0x60 + 8 * p.val + 2 * k.place
  | .device k => 0x80 + 2 * k.place
  | .row r => 0x24 + 5 * r.val + 2

/-- The index of a register (R172); 0xFF, an unassigned one, for `unassigned`. -/
def Register.index (x : Register) : Byte :=
  BitVec.ofNat 8 <|
    match x with
    | .deviceCode => 0x00
    | .revisionCode => 0x01
    | .deviceFlags => 0x02
    | .deviceMask => 0x03
    | .command => 0x04
    | .pauseState => 0x05
    | .discardSetting => 0x06
    | .holdTime => 0x07
    | .interval => 0x08
    | .threshold => 0x09
    | .streakLimit => 0x0A
    | .pagePolicy => 0x0B
    | .pullIn => 0x0C
    | .limit p => 0x10 + p.val
    | .eventMask p => 0x14 + p.val
    | .portState p => 0x18 + 3 * p.val
    | .heldCount p => 0x18 + 3 * p.val + 1
    | .queueDepth p => 0x18 + 3 * p.val + 2
    | .rankState r => 0x24 + 5 * r.val
    | .balance r => 0x24 + 5 * r.val + 1
    | .counterLow c => counterIndex c
    | .counterHigh c => counterIndex c + 1
    | .doubtPresence r => 0x24 + 5 * r.val + 4
    | .staging w f => 0x30 + 6 * w.val + f.offset
    | .control w => 0x30 + 6 * w.val + 5
    | .unassigned => 0xFF

/-! ### Command bytes and I2C writes (R169, R170, R174) -/

/-- The command of a byte taken at the command register (R174): the code in bits 7 to 4, the argument
in bits 1 to 0, bits 3 to 2 not examined. -/
def commandOfByte (value : Byte) : Instr :=
  let code := value.toNat / 16
  let arg := value.toNat % 4
  if code = 1 then .enable (portOf arg)
  else if code = 2 then .drain (portOf arg)
  else if code = 3 then .revoke (portOf arg)
  else if code = 4 then .refreshPause
  else if code = 5 then .refreshResume
  else if code = 6 ∧ arg < 2 then .clearDoubt (rankOf arg)
  else if code = 7 then .clearCounters
  else if code = 8 then .warmReset
  else .unknownCommand value

/-- The command of a data byte written at an index (R169, R170). -/
def commandOfWrite (index value : Byte) : Instr :=
  match registerAt index with
  | .deviceFlags => .deviceFlagsWrite value
  | .deviceMask => .deviceFlagMaskWrite value
  | .command => commandOfByte value
  | .eventMask p => .eventMaskWrite p value
  | .staging w f => .windowStagingWrite w f value
  | .control w => .windowControlWrite w value
  | .deviceCode | .revisionCode | .pauseState | .discardSetting | .holdTime | .interval
  | .threshold | .streakLimit | .pagePolicy | .pullIn | .limit _ | .portState _ | .heldCount _
  | .queueDepth _ | .rankState _ | .balance _ | .counterLow _ | .counterHigh _
  | .doubtPresence _ | .unassigned => .registerWrite index value

/-- The index and the data byte of the I2C write that is a command; none for every other command.
Argument bits that are not examined are written as 0. -/
def writeOfCommand (i : Instr) : Option (Byte × Byte) :=
  let command (code arg : Nat) : Option (Byte × Byte) :=
    some (Register.command.index, BitVec.ofNat 8 (16 * code + arg))
  match i with
  | .enable p => command 1 p.val
  | .drain p => command 2 p.val
  | .revoke p => command 3 p.val
  | .refreshPause => command 4 0
  | .refreshResume => command 5 0
  | .clearDoubt r => command 6 r.val
  | .clearCounters => command 7 0
  | .warmReset => command 8 0
  | .unknownCommand value => some (Register.command.index, value)
  | .deviceFlagsWrite value => some (Register.deviceFlags.index, value)
  | .windowStagingWrite w f value => some ((Register.staging w f).index, value)
  | .windowControlWrite w value => some ((Register.control w).index, value)
  | .deviceFlagMaskWrite value => some (Register.deviceMask.index, value)
  | .eventMaskWrite p value => some ((Register.eventMask p).index, value)
  | .registerWrite index value => some (index, value)
  | .fetch _ _ _ _ | .put _ _ _ _ _ | .putSync _ _ _ _ _ | .claim _ _ _ _ | .drop _ _ _ _
  | .status _ _ _ _ | .garbledFrame _ _ | .unnamedKindFrame _ _ _ _ _ | .decision
  | .accessReadComplete | .accessWriteComplete | .refreshComplete
  | .initializationRefreshComplete | .closeComplete | .discardTimerExpiry _ | .holdTimerExpiry _
  | .intervalTimerExpiry _ | .pauseTimerExpiry _ | .rowOpenTimerExpiry _ | .portResetAssert _
  | .portResetRelease _ | .powerOnResetAssert | .powerOnResetRelease _ _ _
  | .counterLowByteRead _ | .frameBegin _ | .answerSent _ | .indexPointerSet _ => none

/-- The data bytes of a write transaction whose pointer stands at `index`: each is written at the
pointer, which then advances by one, wrapping from 0xFF to 0x00 (R169). -/
def commandsOfWrites (index : Byte) : List Byte → List Instr
  | [] => []
  | b :: bs => commandOfWrite index b :: commandsOfWrites (index + 1) bs

/-- The commands of a whole I2C write transaction, in order (R169): the first data byte sets the index
pointer, each further byte is written. -/
def commandsOfTransaction : List Byte → List Instr
  | [] => []
  | b :: bs => .indexPointerSet b :: commandsOfWrites b bs

end Sys2Proof
end

