-- ==== Sys2Proof/Config.lean ====
section
/-! DEFINITION. What the manual leaves open and nobody chooses: the contents of memory that nothing
has written since the last power-on reset (R148), as constants without a body. -/

namespace Sys2Proof

/-- The data byte at an address that nothing has written since power-on (R148: "the contents of the
memory are undefined, parity bits included"). The first argument numbers the power-on resets, so that
the contents may differ after each. FREE VALUE: nothing constrains it (notes/assumptions/2.md). -/
opaque Config.undefinedData (powerOns addr : Nat) : Byte

/-- The parity bit at an address that nothing has written since power-on (R148). FREE VALUE
(notes/assumptions/2.md). -/
opaque Config.undefinedParity (powerOns addr : Nat) : Bool

end Sys2Proof
end

