-- ==== Sys2Proof/Machine/Records.lean ====
section
/-! DEFINITION. The records the state is made of, one structure for each thing the manual keeps state
of: request-table entries, put-queue entries, holds, port units, windows, rank controls, the memory
bus and the register file. -/

namespace Sys2Proof.Machine

/-! ### Answers, events and faults of a port (R27, R151, R163, R164) -/

/-- The ten DENY reasons (R44, R151). -/
inductive Reason where
  | garbled
  | portOff
  | form
  | late
  | notHeld
  | mismatch
  | quiesced
  | window
  | noMemory
  | double
  deriving DecidableEq, Repr

/-- The five port events (R163), each with a pending flag. -/
inductive EventKind where
  | discard
  | holdExpired
  | hostParity
  | poison
  | denied
  deriving DecidableEq, Repr

/-- The cause field of a fault record (R164). -/
inductive Cause where
  | none
  | deny (reason : Reason)
  | timer
  | revoked
  deriving DecidableEq, Repr

/-- A port's fault record (R164): the most recent event. `kind` is `none` in an empty record. -/
structure FaultRecord where
  kind : Option EventKind
  addr : Addr
  cause : Cause
  more : Bool
  deriving DecidableEq, Repr

/-- One byte as stored in memory: its data and its parity bit (00_scope.md section 0.5, R137). -/
structure StoredByte where
  data : Byte
  parity : Bool
  deriving DecidableEq, Repr

/-- One word as read from memory, with the poison mark the parity unit gave it (R142). -/
structure ReadWord where
  bytes : Oct StoredByte
  poison : Bool
  deriving DecidableEq, Repr

/-- An answer frame (R27), with the echoed tag. -/
inductive Answer where
  | again (tag : Byte)
  | taken (tag : Byte)
  | data (tag : Byte) (words : List ReadWord)
  | done (tag : Byte) (marked : Bool)
  | state (tag : Byte) (flags : BitVec 5) (record : FaultRecord)
  | deny (tag : Byte) (reason : Reason)
  deriving DecidableEq, Repr

/-- How the beginning of the frame that a link is receiving found the link (R153, R160). -/
inductive FrameStart where
  /-- It begins a new exchange. -/
  | clean
  /-- It began while an answer was still being sent (R153). -/
  | overlapping
  /-- It will not be taken: it began while the port-reset line or the power-on reset input was
  asserted, or was being received at the assertion (R160, R186). -/
  | heldOff
  deriving DecidableEq, Repr

/-! ### Request-table entries and put-queue entries (R2, R47) -/

/-- The kinds of request that are held as table entries (R2). -/
inductive EntryKind where
  | fetch
  | putSync
  | claim
  deriving DecidableEq, Repr

/-- The states of a non-FREE entry (R1). -/
inductive EntryState where
  | queued
  | issued
  | ready
  deriving DecidableEq, Repr

/-- The rank and row of an address (R74). -/
structure Place where
  rank : RankId
  row : Nat
  deriving DecidableEq, Repr

/-- One byte of write data as held by a queue entry or a PUT_SYNC entry (R47, R138): the byte as it
arrived, its mask, and its host parity-error mark. -/
structure HeldByte where
  data : Byte
  parity : Bool
  mask : Bool
  mark : Bool
  deriving DecidableEq, Repr

/-- One word of held write data. -/
abbrev HeldWord := Oct HeldByte

/-- A non-FREE entry of the request table (R2), with the fields of all three kinds; a field that the
kind does not hold stands at the value R2 gives an absent one. -/
structure Entry where
  /-- The entry's number (R1). -/
  slot : Slot
  port : Port
  kind : EntryKind
  state : EntryState
  addr : Addr
  /-- Words; for a CLAIM, units of 64 bytes; for a leftover, its undelivered words (R11). -/
  length : Nat
  /-- Rank and row, absent for a CLAIM (R2). -/
  place : Option Place
  window : WindowId
  prefetch : Bool
  /-- The port's taken count at creation (R54). -/
  fence : BitVec 16
  /-- Whether the fence is met; a met fence stays met (R54). -/
  fenceMet : Bool
  /-- PUT_SYNC: the write data (R2). -/
  writeData : List HeldWord
  /-- FETCH: the words read and not yet delivered (R4, R11). -/
  readData : List ReadWord
  /-- PUT_SYNC: marked (R5). CLAIM: granted (R6). -/
  result : Option Bool
  leftover : Bool
  orphan : Bool
  /-- Time left in units of 0.1 µs, or stopped (R18). -/
  discardTimer : Option Nat
  deriving DecidableEq, Repr

/-- An entry of a put queue (R47). -/
structure PutEntry where
  seq : BitVec 16
  addr : Addr
  length : Nat
  words : List HeldWord
  place : Place
  window : WindowId
  inFlight : Bool
  deriving DecidableEq, Repr

/-- An active hold (R77). The timer is the time left in units of 0.1 µs. -/
structure Hold where
  base : Addr
  units : Nat
  window : WindowId
  timer : Nat
  deriving DecidableEq, Repr

/-! ### Port units (chapters 3, 5 and 9) -/

/-- The port states (R155). -/
inductive PortMode where
  | off
  | active
  | draining
  | quiet
  | fault
  deriving DecidableEq, Repr

/-- A port's four counters, or their snapshots (R171, R179). -/
structure PortCounters where
  full : BitVec 16
  discard : BitVec 16
  hostParity : BitVec 16
  deliveredPoison : BitVec 16
  deriving DecidableEq, Repr

/-- The device's four counters, or their snapshots (R171, R179). -/
structure DeviceCounters where
  suppressedPoison : BitVec 16
  overrun : BitVec 16
  forcedRefresh : BitVec 16
  pullInRefresh : BitVec 16
  deriving DecidableEq, Repr

/-- Everything the part keeps for one port outside the request table. -/
structure PortUnit where
  /-- R155. -/
  mode : PortMode
  /-- Consecutive garbled frames (R154). -/
  garbleCount : Nat
  /-- Pending event flags, bit 0 DISCARD to bit 4 DENIED (R151, R163). -/
  flags : BitVec 5
  /-- R166. -/
  eventMask : BitVec 5
  /-- R164. -/
  record : FaultRecord
  /-- The written limit (R14). -/
  limit : Byte
  /-- The put queue, head first (R47). -/
  queue : List PutEntry
  /-- R48. -/
  taken : BitVec 16
  /-- R48. -/
  written : BitVec 16
  /-- The hold slot, `none` when FREE (R77). -/
  hold : Option Hold
  /-- R34. -/
  lastHoldExpired : Bool
  /-- The port-reset input is asserted (R160). -/
  resetLine : Bool
  /-- The frame being received, if any (R153). -/
  receiving : Option FrameStart
  /-- The answer being sent and the answer waiting behind it (R153). -/
  answers : List Answer
  /-- No frame has begun since the end of a warm reset: the next one is not judged against an answer
  sent earlier (R153). -/
  freshLink : Bool
  /-- R179. -/
  counters : PortCounters
  /-- R171. -/
  snapshots : PortCounters
  deriving DecidableEq, Repr

/-! ### Windows (R63, R67) -/

/-- A window record (R63). The rights byte holds a two-bit code per port (R64, R172). -/
structure WindowRecord where
  base : BitVec 16
  limit : BitVec 16
  rights : Byte
  prefetchable : Bool
  claimable : Bool
  deriving DecidableEq, Repr

/-- A window: its active record, its staging copy and the staged flag (R63, R67). -/
structure Window where
  active : WindowRecord
  staging : WindowRecord
  staged : Bool
  deriving DecidableEq, Repr

/-! ### Ranks and the memory bus (R96, R114) -/

/-- The rank states (R114). -/
inductive RankState where
  | absent
  | pause
  | wake
  | ready
  deriving DecidableEq, Repr

/-- A rank's activity (R114). -/
inductive Activity where
  | idle
  | rowOpen
  | busy
  deriving DecidableEq, Repr

/-- A rank control (R114). Timers hold the time left in units of 0.1 µs, or are stopped. -/
structure RankControl where
  state : RankState
  activity : Activity
  openRow : Option Nat
  closeDue : Bool
  rowOpenTimer : Option Nat
  balance : Int
  rowCounter : BitVec 12
  doubt : Bool
  intervalTimer : Option Nat
  pauseTimer : Option Nat
  wakeCount : Nat
  presence : BitVec 2
  deriving DecidableEq, Repr

/-- The page policies (R107). -/
inductive PagePolicy where
  | leaveOpen
  | close
  deriving DecidableEq, Repr

/-- The refresh classes of the operation record (R96). -/
inductive RefreshClass where
  | forced
  | wake
  | pullIn
  deriving DecidableEq, Repr

/-- The work an ACCESS serves (R96): a table entry, or the head of the port's put queue. -/
inductive Work where
  | entry (n : Slot)
  | putHead
  deriving DecidableEq, Repr

/-- The record of an ACCESS in progress (R96). The range is `words` words from `base`. -/
structure Access where
  write : Bool
  rank : RankId
  row : Nat
  port : Port
  work : Work
  base : Addr
  words : Nat
  policy : PagePolicy
  deriving DecidableEq, Repr

/-- The operation in progress on the memory bus (R96). -/
inductive BusOp where
  | access (a : Access)
  | refresh (r : RankId) (cls : RefreshClass)
  | close (r : RankId)
  deriving DecidableEq, Repr

/-- The scheduler's state beside the bus (R106, R109). -/
structure Scheduler where
  pointer : Port
  streakPort : Option Port
  streakCount : Nat
  refreshPaused : Bool
  deriving DecidableEq, Repr

/-! ### The register file (chapter 10) -/

/-- The device-wide settings (R172). -/
structure Settings where
  discard : Byte
  holdTime : Byte
  interval : Byte
  threshold : Byte
  streakLimit : Byte
  pagePolicy : PagePolicy
  pullIn : Bool
  deriving DecidableEq, Repr

/-- The phase of a warm reset; the command state is BUSY in all but the first (R174, R180 to R183). -/
inductive WarmPhase where
  /-- No warm reset is in progress: the command state is IDLE. -/
  | idle
  /-- The sequence waits for the operation in progress (R181). -/
  | waiting
  /-- The clearing point has been taken and open rows are being closed (R183). -/
  | closing
  deriving DecidableEq, Repr

/-- The memory: the bytes written since power-on, addresses strictly rising. An address that is not
listed holds an undefined byte (R148, notes/assumptions/2.md and 27.md). -/
abbrev Memory := List (Nat × StoredByte)

end Sys2Proof.Machine
end

