-- ==== Sys2Proof/Machine/Defaults.lean ====
section
/-! DEFINITION. The values that the resets set, and the fixed numbers of the manual: timer units,
capacities, reset values of every record. -/

namespace Sys2Proof.Machine

/-! ### Times, in units of the 0.1 µs timebase -/

/-- The pause timer's length, 200 µs (R117). -/
def pauseTime : Nat := 2000

/-- The row-open timer's length, 8 µs (R129). -/
def rowOpenTime : Nat := 80

/-- The discard timer's load for setting `n`: n × 4 µs (R18). -/
def discardTime (n : Byte) : Nat := n.toNat * 40

/-- The hold timer's load for setting `n`: n × 10 µs (R78). -/
def holdTimeUnits (n : Byte) : Nat := n.toNat * 100

/-- The interval timer's load for setting `n`: n × 0.1 µs (R122). -/
def intervalTime (n : Byte) : Nat := n.toNat

/-! ### Reset values -/

/-- An empty fault record (R164). -/
def emptyRecord : FaultRecord :=
  { kind := none, addr := 0, cause := .none, more := false }

/-- A port's counters, or snapshots, at 0 (R171, R179). -/
def zeroPortCounters : PortCounters :=
  { full := 0, discard := 0, hostParity := 0, deliveredPoison := 0 }

/-- The device's counters, or snapshots, at 0 (R171, R179). -/
def zeroDeviceCounters : DeviceCounters :=
  { suppressedPoison := 0, overrun := 0, forcedRefresh := 0, pullInRefresh := 0 }

/-- The default of a port's limit (R14). -/
def defaultLimit : Byte := 6

/-- The default event mask: all five events enabled (R166). -/
def defaultEventMask : BitVec 5 := 0x1F

/-- A port unit with nothing in it: OFF, counts 0, flags and record clear, mask and limit at their
defaults, queue empty, no hold (R48, R95, R167, R187). The link's own fields are those of an idle
link. -/
def idlePort : PortUnit :=
  { mode := .off
    garbleCount := 0
    flags := 0
    eventMask := defaultEventMask
    record := emptyRecord
    limit := defaultLimit
    queue := []
    taken := 0
    written := 0
    hold := none
    lastHoldExpired := false
    resetLine := false
    receiving := none
    answers := []
    freshLink := false
    counters := zeroPortCounters
    snapshots := zeroPortCounters }

/-- A window record after reset: off, no rights, no attribute (R71). -/
def offRecord : WindowRecord :=
  { base := 0xFFFF, limit := 0x0000, rights := 0, prefetchable := false, claimable := false }

/-- A window after reset (R71). -/
def offWindow : Window :=
  { active := offRecord, staging := offRecord, staged := false }

/-- The defaults of the device-wide settings (R172). -/
def defaultSettings : Settings :=
  { discard := 16
    holdTime := 20
    interval := 78
    threshold := 6
    streakLimit := 4
    pagePolicy := .leaveOpen
    pullIn := true }

/-- The default of the device-flag mask (R178). -/
def defaultDeviceMask : Byte := 0xFF

/-- The scheduler after either reset: pointer 0, no streak, refresh running (R106, R109, R111). -/
def defaultScheduler : Scheduler :=
  { pointer := 0, streakPort := none, streakCount := 0, refreshPaused := false }

/-- A rank control at the release of power-on reset with presence code `code`: ABSENT for code 0,
otherwise PAUSE with its pause timer loaded (R114, R117). -/
def rankAtRelease (code : BitVec 2) : RankControl :=
  { state := if code = 0 then .absent else .pause
    activity := .idle
    openRow := none
    closeDue := false
    rowOpenTimer := none
    balance := 0
    rowCounter := 0
    doubt := false
    intervalTimer := none
    pauseTimer := if code = 0 then none else some pauseTime
    wakeCount := 0
    presence := code }

/-- The slave address that the address-select pin chooses (R168). -/
def slaveAddressOf (addressSelect : Bool) : BitVec 7 :=
  if addressSelect then 0x3B else 0x3A

/-- The bit of INIT_DONE among the device flags (R172). -/
def initDoneBit : Byte := 0x20

/-- The device flags at the release: clear, but INIT_DONE set when no rank is present (R120, R187). -/
def deviceFlagsAtRelease (codeA codeB : BitVec 2) : Byte :=
  if codeA = 0 ∧ codeB = 0 then initDoneBit else 0

end Sys2Proof.Machine
end

