-- ==== Sys2Proof/Machine/State.lean ====
section
/-! DEFINITION. The state of the W440, the reasons a step can stop, and the state after reset. -/

namespace Sys2Proof.Machine

/-- The state: everything the manual gives the part, and the queue of waiting commands. INVENTORY.md
lists each field with its rule. -/
structure State where
  /-- The commands that wait, first in, first out (the model's own; notes/assumptions/4.md). -/
  pending : List Instr
  /-- The power-on reset input is asserted (R186). -/
  powerOnAsserted : Bool
  /-- How many times power-on reset has been asserted (the model's own; notes/assumptions/2.md). -/
  powerOns : Nat
  /-- The command state and the phase of a warm reset (R174, R180). -/
  warm : WarmPhase
  /-- The non-FREE entries of the request table in age order, oldest first (R1, R3). -/
  table : List Entry
  /-- The port units with their put queues and hold slots. -/
  ports : PerPort PortUnit
  /-- The eight windows (R63). -/
  windows : Oct Window
  /-- The rank controls (R114). -/
  ranks : PerRank RankControl
  /-- The operation in progress, `none` while the bus is FREE (R96). -/
  bus : Option BusOp
  /-- R106, R109. -/
  sched : Scheduler
  /-- R172. -/
  settings : Settings
  /-- R179. -/
  counters : DeviceCounters
  /-- R171. -/
  snapshots : DeviceCounters
  /-- The snapshots of the refresh row counters (R136, R171). -/
  rowSnapshots : PerRank (BitVec 16)
  /-- R176. -/
  deviceFlags : Byte
  /-- R178. -/
  deviceMask : Byte
  /-- R169. -/
  indexPointer : Byte
  /-- The byte the management port sent last (the model's own; notes/assumptions/11.md). -/
  i2cSent : Byte
  /-- R168. -/
  slaveAddress : BitVec 7
  /-- R137, R148. -/
  memory : Memory
  deriving DecidableEq, Repr

/-- Why a step stops with a fault. -/
inductive Fault where
  /-- Raised by the completion of an ACCESS whose recorded range is not within the present memory,
  which the check order never forms (R73, R75). SAFE: no run from reset reaches it. -/
  | accessBeyondMemory
  deriving DecidableEq, Repr

/-- Why a step is refused. -/
inductive Refusal where
  /-- Raised by `exec`'s arm of a command that has no meaning in the model yet. SAFE: nothing is
  claimed of it. -/
  | notModelled (mnemonic : String)
  deriving DecidableEq, Repr

/-- The state at the release of power-on reset (R187), with the inputs sampled there: the
address-select pin and the presence codes of slots A and B. -/
def State.atRelease (addressSelect : Bool) (codeA codeB : BitVec 2) : State :=
  { pending := []
    powerOnAsserted := false
    powerOns := 0
    warm := .idle
    table := []
    ports := { p0 := idlePort, p1 := idlePort, p2 := idlePort, p3 := idlePort }
    windows := Oct.all offWindow
    ranks := { r0 := rankAtRelease codeA, r1 := rankAtRelease codeB }
    bus := none
    sched := defaultScheduler
    settings := defaultSettings
    counters := zeroDeviceCounters
    snapshots := zeroDeviceCounters
    rowSnapshots := { r0 := 0, r1 := 0 }
    deviceFlags := deviceFlagsAtRelease codeA codeB
    deviceMask := defaultDeviceMask
    indexPointer := 0
    i2cSent := 0
    slaveAddress := slaveAddressOf addressSelect
    memory := [] }

/-- The machine right after reset (R187). The sampled inputs are those of the board of
11_worked_sequences.md section 11.1, presence code 2 in each slot, and the address-select pin low
(DESIGN CHOICE, notes/assumptions/1.md). -/
def State.reset : State :=
  State.atRelease false 2 2

/-! ### Reading and changing one port, rank or window -/

/-- The unit of port `p`. -/
def State.port (s : State) (p : Port) : PortUnit :=
  s.ports.get p

/-- The state with port `p`'s unit replaced. -/
def State.setPort (s : State) (p : Port) (u : PortUnit) : State :=
  { s with ports := s.ports.set p u }

/-- The rank control of rank `r`. -/
def State.rank (s : State) (r : RankId) : RankControl :=
  s.ranks.get r

/-- The state with rank `r`'s control replaced. -/
def State.setRank (s : State) (r : RankId) (c : RankControl) : State :=
  { s with ranks := s.ranks.set r c }

/-- Window `w`. -/
def State.window (s : State) (w : WindowId) : Window :=
  s.windows.get w

/-- The state with window `w` replaced. -/
def State.setWindow (s : State) (w : WindowId) (v : Window) : State :=
  { s with windows := s.windows.set w v }

end Sys2Proof.Machine
end

