-- ==== Sys2Proof/Machine/Operands.lean ====
section
/-! DEFINITION. What a command's operands say: address ranges and their overlaps, the form of a request
(R33), parity (R137) and the words of a write as the part holds them (R138). -/

namespace Sys2Proof.Machine

/-! ### Ranges of bytes -/

/-- A range of byte addresses: `size` bytes from `base`. -/
structure Span where
  base : Nat
  size : Nat
  deriving DecidableEq, Repr

/-- The first address past the range. -/
def Span.stop (a : Span) : Nat :=
  a.base + a.size

/-- The two ranges have at least one byte in common (00_scope.md section 0.5). -/
def Span.overlaps (a b : Span) : Bool :=
  decide (max a.base b.base < min a.stop b.stop)

/-- The two ranges have a byte in common that lies outside `own` (R188, R189). -/
def Span.overlapsOutside (a b own : Span) : Bool :=
  a.overlaps b &&
    !(decide (own.base ≤ max a.base b.base) && decide (min a.stop b.stop ≤ own.stop))

/-- The range of `n` words from `addr`. -/
def wordSpan (addr : Addr) (n : Nat) : Span :=
  { base := addr.toNat, size := 8 * n }

/-- The range of `n` units of 64 bytes from `addr` (R77). -/
def unitSpan (addr : Addr) (n : Nat) : Span :=
  { base := addr.toNat, size := 64 * n }

/-- The address `n` words above `addr` (R11, R12). -/
def addWords (addr : Addr) (n : Nat) : Addr :=
  addr + BitVec.ofNat 32 (8 * n)

/-- The words from an address to the end of its 128-byte block (R4). -/
def wordsToBlockEnd (addr : Addr) : Nat :=
  (128 - addr.toNat % 128) / 8

/-- The words an entry's access covers: for a FETCH with the prefetch flag, its read range to the end
of its block; otherwise its length (R4, R22). -/
def Entry.accessWords (e : Entry) : Nat :=
  if e.kind = .fetch ∧ e.prefetch then wordsToBlockEnd e.addr else e.length

/-- The access range of a FETCH or PUT_SYNC entry (R22). -/
def Entry.accessSpan (e : Entry) : Span :=
  wordSpan e.addr e.accessWords

/-- The span of a CLAIM entry (R80). -/
def Entry.claimSpan (e : Entry) : Span :=
  unitSpan e.addr e.length

/-- The words a READY FETCH entry holds: a leftover's undelivered words, otherwise its whole read
range (R59). -/
def Entry.heldWords (e : Entry) : Nat :=
  if e.leftover then e.length else e.accessWords

/-- The range of a queued PUT: its length words from its address, whatever its masks (R49). -/
def PutEntry.span (q : PutEntry) : Span :=
  wordSpan q.addr q.length

/-- The span of a hold (R77). -/
def Hold.span (h : Hold) : Span :=
  unitSpan h.base h.units

/-- The range of an ACCESS in progress (R96). -/
def Access.span (a : Access) : Span :=
  wordSpan a.base a.words

/-! ### The form step (R33) -/

/-- A FETCH, PUT or PUT_SYNC is well formed: a word address, 1 to 16 words, within one 128-byte
block. -/
def wordFormOk (addr : Addr) (len : Byte) : Bool :=
  decide (addr.toNat % 8 = 0) && decide (1 ≤ len.toNat) && decide (len.toNat ≤ 16) &&
    decide (addr.toNat % 128 / 8 + len.toNat ≤ 16)

/-- A CLAIM is well formed: a multiple of 64, 1 to 64 units, within one 4 KiB page. -/
def claimFormOk (addr : Addr) (len : Byte) : Bool :=
  decide (addr.toNat % 64 = 0) && decide (1 ≤ len.toNat) && decide (len.toNat ≤ 64) &&
    decide (addr.toNat % 4096 / 64 + len.toNat ≤ 64)

/-- A DROP is well formed: a multiple of 64. -/
def dropFormOk (addr : Addr) : Bool :=
  decide (addr.toNat % 64 = 0)

/-! ### Parity (R137) -/

/-- The byte holds an odd number of ones. -/
def oddOnes (b : Byte) : Bool :=
  b.getLsbD 0 ^^ b.getLsbD 1 ^^ b.getLsbD 2 ^^ b.getLsbD 3 ^^
    b.getLsbD 4 ^^ b.getLsbD 5 ^^ b.getLsbD 6 ^^ b.getLsbD 7

/-- A byte passes its parity check: the byte and its parity bit together hold an odd number of ones
(R137). -/
def parityGood (data : Byte) (parity : Bool) : Bool :=
  oddOnes data ^^ parity

/-- A stored byte passes its parity check (R142). -/
def StoredByte.good (b : StoredByte) : Bool :=
  parityGood b.data b.parity

/-! ### Write data as held (R138) -/

/-- A presented byte as it is held: it is given a host parity-error mark when its mask is set and it
fails its parity check (R138). -/
def heldByteOf (b : LinkByte) : HeldByte :=
  { data := b.data
    parity := b.parity
    mask := b.mask
    mark := b.mask && !parityGood b.data b.parity }

/-- The presented words as they are held (R138). -/
def heldWordsOf (ws : List LinkWord) : List HeldWord :=
  ws.map fun w => w.map heldByteOf

/-- At least one byte carries a host parity-error mark (R139, R141). -/
def anyMarked (ws : List HeldWord) : Bool :=
  ws.any fun w => w.toList.any (·.mark)

/-- A word is written: at least one of its byte masks is set (R58). -/
def wordWritten (w : HeldWord) : Bool :=
  w.toList.any (·.mask)

/-- A presented byte agrees with a held one: the same mask, and the same data where the mask is set
(R8). Parity bits and marks are not compared. -/
def byteAgrees (h : HeldByte) (b : LinkByte) : Bool :=
  h.mask == b.mask && (!h.mask || h.data == b.data)

/-- A presented word agrees with a held one (R8). -/
def wordAgrees (h : HeldWord) (w : LinkWord) : Bool :=
  (h.toList.zip w.toList).all fun x => byteAgrees x.1 x.2

/-- Presented PUT_SYNC data agree with an entry's (R8). -/
def dataAgrees (hs : List HeldWord) (ws : List LinkWord) : Bool :=
  hs.length == ws.length && (hs.zip ws).all fun x => wordAgrees x.1 x.2

/-- The number of poison marks among words read. -/
def markCount (ws : List ReadWord) : Nat :=
  ws.countP (·.poison)

end Sys2Proof.Machine
end

