-- ==== Sys2Proof/Machine/Flags.lean ====
section
/-! DEFINITION. Every flag, counter and line: port events with their fault record (R163, R164), device
flags (R176), the saturating counters and their snapshots (R171, R179), and the attention and alert
lines (R166, R178). -/

namespace Sys2Proof.Machine

/-! ### Counters (R179) -/

/-- A counter advanced by `n`, saturating at 65535 (R179). -/
def saturatingAdd (c : BitVec 16) (n : Nat) : BitVec 16 :=
  BitVec.ofNat 16 (min 65535 (c.toNat + n))

/-- One of a port's four counters. -/
def PortCounters.get (c : PortCounters) (k : PortCounter) : BitVec 16 :=
  match k with
  | .full => c.full
  | .discard => c.discard
  | .hostParity => c.hostParity
  | .deliveredPoison => c.deliveredPoison

/-- One of a port's four counters replaced. -/
def PortCounters.set (c : PortCounters) (k : PortCounter) (v : BitVec 16) : PortCounters :=
  match k with
  | .full => { c with full := v }
  | .discard => { c with discard := v }
  | .hostParity => { c with hostParity := v }
  | .deliveredPoison => { c with deliveredPoison := v }

/-- One of the device's four counters. -/
def DeviceCounters.get (c : DeviceCounters) (k : DeviceCounter) : BitVec 16 :=
  match k with
  | .suppressedPoison => c.suppressedPoison
  | .overrun => c.overrun
  | .forcedRefresh => c.forcedRefresh
  | .pullInRefresh => c.pullInRefresh

/-- One of the device's four counters replaced. -/
def DeviceCounters.set (c : DeviceCounters) (k : DeviceCounter) (v : BitVec 16) : DeviceCounters :=
  match k with
  | .suppressedPoison => { c with suppressedPoison := v }
  | .overrun => { c with overrun := v }
  | .forcedRefresh => { c with forcedRefresh := v }
  | .pullInRefresh => { c with pullInRefresh := v }

/-- Port `p`'s counter `k` advanced by `n` (R179). -/
def countPort (s : State) (p : Port) (k : PortCounter) (n : Nat) : State :=
  let u := s.port p
  s.setPort p { u with counters := u.counters.set k (saturatingAdd (u.counters.get k) n) }

/-- The device's counter `k` advanced by `n` (R179). -/
def countDevice (s : State) (k : DeviceCounter) (n : Nat) : State :=
  { s with counters := s.counters.set k (saturatingAdd (s.counters.get k) n) }

/-- The value a counter read shows: a counter, or a rank's refresh row counter (R136, R171). -/
def counterValue (s : State) (c : CounterId) : BitVec 16 :=
  match c with
  | .port p k => (s.port p).counters.get k
  | .device k => s.counters.get k
  | .row r => (s.rank r).rowCounter.setWidth 16

/-- The snapshot of a counter (R171). -/
def snapshotValue (s : State) (c : CounterId) : BitVec 16 :=
  match c with
  | .port p k => (s.port p).snapshots.get k
  | .device k => s.snapshots.get k
  | .row r => s.rowSnapshots.get r

/-- The snapshot of a counter loaded with a value (R171). -/
def loadSnapshot (s : State) (c : CounterId) (v : BitVec 16) : State :=
  match c with
  | .port p k => s.setPort p { s.port p with snapshots := (s.port p).snapshots.set k v }
  | .device k => { s with snapshots := s.snapshots.set k v }
  | .row r => { s with rowSnapshots := s.rowSnapshots.set r v }

/-! ### Port events (R163, R164) -/

/-- The bit of an event flag (R151). -/
def EventKind.bit (k : EventKind) : BitVec 5 :=
  match k with
  | .discard => 0x01
  | .holdExpired => 0x02
  | .hostParity => 0x04
  | .poison => 0x08
  | .denied => 0x10

/-- An event is raised at port `p`: the fault record is overwritten, with more set when a flag was
already pending, and the flag becomes pending (R163, R164). -/
def raiseEvent (s : State) (p : Port) (k : EventKind) (addr : Addr) (cause : Cause) : State :=
  let u := s.port p
  s.setPort p
    { u with
      flags := u.flags ||| k.bit
      record := { kind := some k, addr := addr, cause := cause, more := u.flags != 0 } }

/-- Port `p`'s event flags and fault record cleared (R164, R165). -/
def clearEvents (s : State) (p : Port) : State :=
  s.setPort p { s.port p with flags := 0, record := emptyRecord }

/-- The attention line of port `p`: at least one flag both pending and enabled (R166). -/
def attention (s : State) (p : Port) : Bool :=
  (s.port p).flags &&& (s.port p).eventMask != 0

/-! ### Device flags (R176, R178) -/

/-- Bit 0, REFRESH_OVERRUN (R172). -/
def refreshOverrunBit : Byte := 0x01

/-- Bits 1 to 4, PORT_FAULT(p) (R172). -/
def portFaultBit (p : Port) : Byte :=
  match p with
  | 0 => 0x02
  | 1 => 0x04
  | 2 => 0x08
  | 3 => 0x10

/-- Bit 6, WARM_DONE (R172). -/
def warmDoneBit : Byte := 0x40

/-- Bit 7, CMD_REFUSED (R172). -/
def cmdRefusedBit : Byte := 0x80

/-- A device flag is set; one already pending stays pending (R176). -/
def setDeviceFlag (s : State) (bit : Byte) : State :=
  { s with deviceFlags := s.deviceFlags ||| bit }

/-- The alert line: at least one device flag both pending and enabled (R178). It is deasserted while
power-on reset is asserted (R186). -/
def alert (s : State) : Bool :=
  !s.powerOnAsserted && s.deviceFlags &&& s.deviceMask != 0

end Sys2Proof.Machine
end

