-- ==== Sys2Proof/Machine/Store.lean ====
section
/-! DEFINITION. The memory: bytes with their parity bits (R137), what a write stores (R140) and what a
read finds (R142). -/

namespace Sys2Proof.Machine

/-- The memory has its one canonical form: the listed addresses strictly rise. An unlisted address
reads as a byte nobody wrote, so no listed entry can equal it. -/
def Memory.wf : Memory → Bool
  | [] => true
  | [_] => true
  | x :: y :: rest => decide (x.1 < y.1) && Memory.wf (y :: rest)

/-- The byte listed at an address, if one has been written since power-on. -/
def Memory.find : Memory → Nat → Option StoredByte
  | [], _ => none
  | x :: rest, a => if x.1 = a then some x.2 else Memory.find rest a

/-- The memory with one byte written. -/
def Memory.set : Memory → Nat → StoredByte → Memory
  | [], a, b => [(a, b)]
  | x :: rest, a, b =>
    if a < x.1 then (a, b) :: x :: rest
    else if a = x.1 then (a, b) :: rest
    else x :: Memory.set rest a b

/-- The byte that a read of an address finds: the byte last written, or an undefined one where nothing
has been written since power-on (R148; notes/assumptions/2.md). -/
def Memory.read (m : Memory) (powerOns a : Nat) : StoredByte :=
  match m.find a with
  | some b => b
  | none =>
    { data := Config.undefinedData powerOns a, parity := Config.undefinedParity powerOns a }

/-- One byte of a write: stored as presented, with the host's parity bit, when its mask is set; left
as it was otherwise (R140). -/
def Memory.storeByte (m : Memory) (a : Nat) (b : HeldByte) : Memory :=
  if b.mask then m.set a { data := b.data, parity := b.parity } else m

/-- The bytes of a write, stored from an address upward. -/
def Memory.storeBytes : Memory → Nat → List HeldByte → Memory
  | m, _, [] => m
  | m, a, b :: bs => Memory.storeBytes (m.storeByte a b) (a + 1) bs

/-- The words of a write, stored from an address upward, byte 0 of a word at the lowest address
(R140, R151). -/
def Memory.storeWords (m : Memory) (a : Nat) (ws : List HeldWord) : Memory :=
  m.storeBytes a (ws.flatMap Oct.toList)

/-- The word that a read finds at an address, marked poisoned when at least one of its bytes fails its
parity check (R142). -/
def Memory.readWord (m : Memory) (powerOns a : Nat) : ReadWord :=
  let bytes := Oct.ofFn fun i => m.read powerOns (a + i.val)
  { bytes := bytes, poison := bytes.toList.any fun b => !b.good }

/-- The words that a read of `n` words from an address finds, in address order (R4, R142). -/
def Memory.readWords (m : Memory) (powerOns a n : Nat) : List ReadWord :=
  (List.range n).map fun i => m.readWord powerOns (a + 8 * i)

/-! ### The memory map (R72 to R75) -/

/-- The capacity in bytes that a presence code stands for (R72). -/
def capacityOf (code : BitVec 2) : Nat :=
  if code = 0 then 0
  else if code = 1 then 64 * 1048576
  else if code = 2 then 128 * 1048576
  else 256 * 1048576

/-- The number of rows that a presence code stands for (R72). -/
def rowsOf (code : BitVec 2) : Nat :=
  capacityOf code / 8192

/-- The number of rows in each of a rank's 4096 refresh groups (R121). -/
def rowsPerGroup (code : BitVec 2) : Nat :=
  rowsOf code / 4096

/-- The rows that a REFRESH of a rank refreshes (R121): the first row of the group that the refresh
row counter numbers at the completion, and how many rows the group holds. The rows themselves hold no
state of the part. -/
def refreshedRows (code : BitVec 2) (counter : BitVec 12) : Nat × Nat :=
  (counter.toNat * rowsPerGroup code, rowsPerGroup code)

/-- The total capacity of the present ranks (R73). -/
def totalCapacity (s : State) : Nat :=
  capacityOf (s.rank 0).presence + capacityOf (s.rank 1).presence

/-- The rank and row of an address, if any memory lies there: rank 0 from address 0, rank 1 behind it
(R73, R74, R75). -/
def placeOf (s : State) (addr : Addr) : Option Place :=
  let c0 := capacityOf (s.rank 0).presence
  let a := addr.toNat
  if a < c0 then some { rank := 0, row := a / 8192 }
  else if a < totalCapacity s then some { rank := 1, row := (a - c0) / 8192 }
  else none

end Sys2Proof.Machine
end

