-- ==== Sys2Proof/Machine/Windows.lean ====
section
/-! DEFINITION. The window map: decode of a request address (R63 to R66), staging and activation (R67,
R68), and the in-use flag (R70). -/

namespace Sys2Proof.Machine

/-- The right of a port in a window (R64). -/
inductive Right where
  | none
  | read
  | readWrite
  deriving DecidableEq, Repr

/-- The right of port `p` in a record: the two-bit code at bits 2p + 1 and 2p, code 3 taken as NONE
(R64, R172). -/
def WindowRecord.right (w : WindowRecord) (p : Port) : Right :=
  let code := w.rights.toNat / 4 ^ p.val % 4
  if code = 1 then .read else if code = 2 then .readWrite else .none

/-- The record contains the address: it is not off, and the address's 64 KiB step lies from base to
limit (R63). -/
def WindowRecord.contains (w : WindowRecord) (addr : Addr) : Bool :=
  let step := addr.toNat / 65536
  decide (w.base.toNat ≤ step) && decide (step ≤ w.limit.toNat)

/-- The window numbers in ascending order. -/
def allWindows : List WindowId := [0, 1, 2, 3, 4, 5, 6, 7]

/-- The lowest-numbered window whose active record contains the address (R65). -/
def findWindow (s : State) (addr : Addr) : Option WindowId :=
  allWindows.find? fun w => (s.window w).active.contains addr

/-- What the window step is asked for: the kinds of R64. -/
inductive Purpose where
  | fetch
  | write
  | claim
  deriving DecidableEq, Repr

/-- The right allows the purpose; a CLAIM also needs the claimable attribute (R64, R65). -/
def allows (r : Right) (claimable : Bool) (k : Purpose) : Bool :=
  match k with
  | .fetch => r != .none
  | .write => r == .readWrite
  | .claim => r == .readWrite && claimable

/-- The window step (R65): the lowest-numbered containing window, when it allows the request. -/
def decodeWindow (s : State) (p : Port) (k : Purpose) (addr : Addr) : Option WindowId :=
  match findWindow s addr with
  | none => none
  | some w =>
    let a := (s.window w).active
    if allows (a.right p) a.claimable k then some w else none

/-- Window `w`'s in-use flag: an entry, a queued PUT or an active hold carries its index (R70). -/
def inUse (s : State) (w : WindowId) : Bool :=
  s.table.any (fun e => e.window == w) ||
    allPorts.any fun p =>
      (s.port p).queue.any (fun q => q.window == w) ||
        (match (s.port p).hold with
         | some h => h.window == w
         | none => false)

/-- A record with one of its staging bytes replaced (R67, R172). -/
def WindowRecord.withByte (r : WindowRecord) (f : StagingField) (v : Byte) : WindowRecord :=
  match f with
  | .baseLow => { r with base := r.base.extractLsb' 8 8 ++ v }
  | .baseHigh => { r with base := v ++ r.base.extractLsb' 0 8 }
  | .limitLow => { r with limit := r.limit.extractLsb' 8 8 ++ v }
  | .limitHigh => { r with limit := v ++ r.limit.extractLsb' 0 8 }
  | .rights => { r with rights := v }

/-- One of a record's staging bytes (R67, R172). -/
def WindowRecord.byte (r : WindowRecord) (f : StagingField) : Byte :=
  match f with
  | .baseLow => r.base.extractLsb' 0 8
  | .baseHigh => r.base.extractLsb' 8 8
  | .limitLow => r.limit.extractLsb' 0 8
  | .limitHigh => r.limit.extractLsb' 8 8
  | .rights => r.rights

/-- A staging write: the byte goes into the staging copy and the staged flag is set (R67). -/
def stageByte (s : State) (w : WindowId) (f : StagingField) (v : Byte) : State :=
  let x := s.window w
  s.setWindow w { x with staging := x.staging.withByte f v, staged := true }

/-- A control write: the attributes are stored, the staging copy becomes active, and the staged flag
is cleared, together (R68). -/
def activateWindow (s : State) (w : WindowId) (v : Byte) : State :=
  let x := s.window w
  let r := { x.staging with prefetchable := v.getLsbD 0, claimable := v.getLsbD 1 }
  s.setWindow w { active := r, staging := r, staged := false }

end Sys2Proof.Machine
end

