-- ==== Sys2Proof/Machine/Table.lean ====
section
/-! DEFINITION. The request table: keys and matching (R7 to R9), reserve and limit with leftover reclaim
(R14 to R16), creation and freeing of entries (R2, R3), and the marks that leave unseen (R146). -/

namespace Sys2Proof.Machine

/-- The held count of a port: its non-FREE entries (R14). -/
def heldCount (s : State) (p : Port) : Nat :=
  s.table.countP fun e => e.port == p

/-- The limit in effect of a port: the written limit, or the held count while that is larger (R14). -/
def limitInEffect (s : State) (p : Port) : Nat :=
  max (s.port p).limit.toNat (heldCount s p)

/-- The shortfall of a port: 2 minus its held count, or 0 (R15). -/
def shortfall (s : State) (p : Port) : Nat :=
  2 - heldCount s p

/-- The shortfall of the ports other than `p` together (R15). -/
def shortfallOfOthers (s : State) (p : Port) : Nat :=
  ((allPorts.filter (· != p)).map (shortfall s)).sum

/-- A new request of port `p` is admitted under the reserve and limit (R15): the port is below its
limit in effect, and an entry can be taken that leaves the other ports their shortfall. -/
def admits (s : State) (p : Port) : Bool :=
  decide (heldCount s p < limitInEffect s p) &&
    decide (s.table.length + 1 + shortfallOfOthers s p ≤ 16)

/-- The lowest-numbered FREE entry (R1). -/
def lowestFree (s : State) : Option Slot :=
  (List.finRange 16).find? fun n => s.table.all fun e => e.slot != n

/-- The entry with a number, if it is not FREE. -/
def entryAt (s : State) (n : Slot) : Option Entry :=
  s.table.find? fun e => e.slot == n

/-- The entry is freed: it leaves the table and the age order, and those behind it keep their relative
places (R3). -/
def freeEntry (s : State) (n : Slot) : State :=
  { s with table := s.table.filter fun e => e.slot != n }

/-- The entry with a number is changed in its place (R3). -/
def updateEntry (s : State) (n : Slot) (f : Entry → Entry) : State :=
  { s with table := s.table.map fun e => if e.slot = n then f e else e }

/-- A created entry joins the young end of the age order (R2, R3). -/
def addEntry (s : State) (e : Entry) : State :=
  { s with table := s.table ++ [e] }

/-- The entries older than the one with a number (R3). -/
def olderThan (s : State) (n : Slot) : List Entry :=
  s.table.takeWhile fun e => e.slot != n

/-- The suppressed-poison counter advances by the marked words among those dropped (R146). -/
def suppress (s : State) (ws : List ReadWord) : State :=
  countDevice s .suppressedPoison (markCount ws)

/-- An entry is freed and the poison marks of its undelivered words are counted as suppressed
(R146). -/
def dropEntry (s : State) (e : Entry) : State :=
  suppress (freeEntry s e.slot) e.readData

/-- Port `p`'s oldest leftover (R16). -/
def oldestLeftover (s : State) (p : Port) : Option Entry :=
  s.table.find? fun e => e.port == p && e.leftover

/-- Room for a new request of port `p`: under the reserve and limit the lowest-numbered FREE entry
(R1, R15); otherwise the entry of the port's oldest leftover, which is discarded (R16); otherwise
none. -/
def makeRoom (s : State) (p : Port) : Option (State × Slot) :=
  if admits s p then (lowestFree s).map fun n => (s, n)
  else (oldestLeftover s p).map fun e => (dropEntry s e, e.slot)

/-- What the matching step finds for a key (R8, R9). -/
inductive Match where
  | entry (e : Entry)
  | orphan
  | fresh

/-- The matching step: a non-orphaned entry with the key of port, kind and address, else an orphan's
key, else nothing (R7, R8, R9). -/
def matchKey (s : State) (p : Port) (k : EntryKind) (addr : Addr) : Match :=
  let key (e : Entry) : Bool := e.port == p && e.kind == k && e.addr == addr
  match s.table.find? fun e => key e && !e.orphan with
  | some e => .entry e
  | none => if s.table.any key then .orphan else .fresh

/-- A non-orphaned FETCH entry of port `p` holds the address (R7). -/
def fetchKeyHeld (s : State) (p : Port) (addr : Addr) : Bool :=
  s.table.any fun e => e.port == p && e.kind == .fetch && e.addr == addr && !e.orphan

/-- The discard timer's load at the setting in effect (R18). -/
def freshDiscard (s : State) : Option Nat :=
  some (discardTime s.settings.discard)

/-- The entry's fence is met by a written count that reaches it (R51, R54). -/
def meetFence (p : Port) (written : BitVec 16) (e : Entry) : Entry :=
  if e.port = p ∧ e.state = .queued ∧ e.kind ≠ .claim ∧ e.fence = written then
    { e with fenceMet := true }
  else e

/-! ### Coherence on write (R58, R59) -/

/-- The addresses of the words that a write writes: those with at least one mask set (R58). -/
def writtenWords (base : Nat) : List HeldWord → List Nat
  | [] => []
  | w :: ws =>
    if wordWritten w then base :: writtenWords (base + 8) ws else writtenWords (base + 8) ws

/-- The entry is a READY FETCH whose held range contains a written word (R59). -/
def madeStale (written : List Nat) (e : Entry) : Bool :=
  e.kind == .fetch && e.state == .ready &&
    written.any fun a => (wordSpan e.addr e.heldWords).overlaps { base := a, size := 8 }

/-- What the coherence search makes of a stale entry: a leftover is freed, any other returns to QUEUED
with its words dropped and its timer stopped (R59). -/
def invalidate (e : Entry) : Option Entry :=
  if e.leftover then none
  else some { e with state := .queued, readData := [], discardTimer := none }

/-- The coherence search of a completed write (R59): stale READY FETCHes return to QUEUED, stale
leftovers are freed and their marks counted as suppressed. -/
def coherenceSearch (s : State) (written : List Nat) : State :=
  let dropped := s.table.filter fun e => madeStale written e && e.leftover
  let s' := { s with
    table := s.table.filterMap fun e => if madeStale written e then invalidate e else some e }
  suppress s' (dropped.flatMap (·.readData))

end Sys2Proof.Machine
end

