-- ==== Sys2Proof/Machine/Holds.lean ====
section
/-! DEFINITION. The hold unit: pending claims and their fence (R79, R80, R188, R189), granting (R81 to
R83), and the end of a hold (R87 to R91). -/

namespace Sys2Proof.Machine

/-- The pending-claim list: the QUEUED CLAIM entries in age order (R79). -/
def pendingClaims (s : State) : List Entry :=
  s.table.filter fun e => e.kind == .claim && e.state == .queued

/-- The active hold of port `q` overlaps the range. -/
def holdOverlaps (s : State) (q : Port) (a : Span) : Bool :=
  match (s.port q).hold with
  | some h => h.span.overlaps a
  | none => false

/-- An active hold of a port other than `p` overlaps the range (R41, R85). -/
def foreignHoldOverlaps (s : State) (p : Port) (a : Span) : Bool :=
  allPorts.any fun q => q != p && holdOverlaps s q a

/-- A pending claim of another port holds back a write of port `p` over the range: it overlaps the
claim's span, and, when `p` has an active hold, at a byte outside it (R80, R188, R189). -/
def fencedBy (s : State) (p : Port) (a : Span) (c : Entry) : Bool :=
  c.port != p &&
    (match (s.port p).hold with
     | some h => a.overlapsOutside c.claimSpan h.span
     | none => a.overlaps c.claimSpan)

/-! ### Granting (R81 to R83) -/

/-- A put queue of a port other than `p` holds a PUT over the span (R81). -/
def foreignPutOver (s : State) (p : Port) (a : Span) : Bool :=
  allPorts.any fun q => q != p && (s.port q).queue.any fun w => w.span.overlaps a

/-- The memory operation in progress is an ACCESS on behalf of a port other than `p` over the span
(R81). -/
def foreignAccessOver (s : State) (p : Port) (a : Span) : Bool :=
  match s.bus with
  | some (.access x) => x.port != p && x.span.overlaps a
  | _ => false

/-- An older entry of another port bars the grant of a claim: a QUEUED CLAIM over the span, or a
PUT_SYNC over it that is QUEUED or ISSUED (R81). -/
def barsGrant (p : Port) (a : Span) (e : Entry) : Bool :=
  e.port != p &&
    match e.kind with
    | .claim => e.state == .queued && e.claimSpan.overlaps a
    | .putSync => e.state != .ready && e.accessSpan.overlaps a
    | .fetch => false

/-- A QUEUED CLAIM entry is grantable (R81). -/
def grantable (s : State) (c : Entry) : Bool :=
  let a := c.claimSpan
  !(allPorts.any fun q => holdOverlaps s q a) &&
    !((olderThan s c.slot).any (barsGrant c.port a)) &&
    !foreignPutOver s c.port a &&
    !foreignAccessOver s c.port a

/-- The hold that the grant of a claim makes active (R83). -/
def holdOf (s : State) (c : Entry) : Hold :=
  { base := c.addr
    units := c.length
    window := c.window
    timer := holdTimeUnits s.settings.holdTime }

/-- The grant of a claim (R83): the port's slot becomes ACTIVE with its timer loaded, the entry
becomes READY with granted = yes and its discard timer starts, and the port's last-hold-expired flag
is cleared. -/
def grant (s : State) (c : Entry) : State :=
  let s' := s.setPort c.port
    { s.port c.port with hold := some (holdOf s c), lastHoldExpired := false }
  updateEntry s' c.slot fun e =>
    { e with state := .ready, result := some true, discardTimer := freshDiscard s }

/-- One claim is examined in an evaluation (R82). -/
def grantIfPossible (s : State) (c : Entry) : State :=
  if grantable s c then grant s c else s

/-- The hold unit evaluates grants: the QUEUED CLAIM entries in age order, each granted when it is
grantable at the moment it is reached (R82). -/
def evaluateGrants (s : State) : State :=
  (pendingClaims s).foldl grantIfPossible s

/-! ### The end of a hold (R87) -/

/-- The CLAIM entry of port `p`'s hold, still READY with granted = yes (R87). -/
def isGrantedClaim (p : Port) (e : Entry) : Bool :=
  e.port == p && e.kind == .claim && e.state == .ready && e.result == some true

/-- Port `p`'s slot becomes FREE (R87). -/
def freeHold (s : State) (p : Port) : State :=
  s.setPort p { s.port p with hold := none }

/-- The port's still-READY CLAIM entry with granted = yes becomes granted = no (R6, R88). -/
def withdrawClaim (s : State) (p : Port) : State :=
  { s with table := s.table.map fun e =>
      if isGrantedClaim p e then { e with result := some false } else e }

/-- The port's still-READY CLAIM entry with granted = yes is freed (R35). -/
def freeGrantedClaim (s : State) (p : Port) : State :=
  { s with table := s.table.filter fun e => !isGrantedClaim p e }

/-- A hold ends by expiry or REVOKE, as one happening (R88, R89): the slot becomes FREE, last hold
expired is set, HOLD_EXPIRED is raised with the hold's base and the cause, a still-READY CLAIM entry
becomes granted = no, and grants are evaluated. With the slot FREE nothing happens. -/
def expireHold (s : State) (p : Port) (cause : Cause) : State :=
  match (s.port p).hold with
  | none => s
  | some h =>
    let s := freeHold s p
    let s := s.setPort p { s.port p with lastHoldExpired := true }
    let s := raiseEvent s p .holdExpired h.base cause
    evaluateGrants (withdrawClaim s p)

/-- A DROP answered DONE (R35): the slot becomes FREE, a still-READY CLAIM entry of the hold is freed,
and grants are evaluated. -/
def releaseHold (s : State) (p : Port) : State :=
  evaluateGrants (freeGrantedClaim (freeHold s p) p)

end Sys2Proof.Machine
end

