-- ==== Sys2Proof/Machine/Sched.lean ====
section
/-! DEFINITION. The scheduler: issuability (R22), the four candidate classes (R100 to R103), the winner
order (R104 to R106), and what an issue does (R96 to R98, R128). -/

namespace Sys2Proof.Machine

/-! ### Issuability (R22, R23) -/

/-- The entry's rank is READY. -/
def placeReady (s : State) (place : Option Place) : Bool :=
  match place with
  | some x => (s.rank x.rank).state == .ready
  | none => false

/-- A QUEUED PUT_SYNC entry is held back by a pending-claim fence: an older pending claim of another
port fences its range (R80, R189). -/
def heldBackByFence (s : State) (e : Entry) : Bool :=
  e.kind == .putSync &&
    (olderThan s e.slot).any fun c =>
      c.kind == .claim && c.state == .queued && fencedBy s e.port e.accessSpan c

/-- A FETCH or PUT_SYNC entry is issuable (R22). -/
def issuable (s : State) (e : Entry) : Bool :=
  e.state == .queued && e.kind != .claim && placeReady s e.place && e.fenceMet &&
    !foreignHoldOverlaps s e.port e.accessSpan && !heldBackByFence s e

/-- The port's oldest issuable entry (R23). -/
def oldestIssuable (s : State) (p : Port) : Option Entry :=
  s.table.find? fun e => e.port == p && issuable s e

/-- The port's put-queue head, when its rank is READY and it is not in flight (R50, R102). -/
def readyHead (s : State) (p : Port) : Option PutEntry :=
  match (s.port p).queue with
  | [] => none
  | q :: _ => if placeReady s (some q.place) ∧ ¬ q.inFlight then some q else none

/-- A table entry is older than a queued PUT of its port (R55): its fence is met, or the PUT's
sequence number lies 1 to 8 past the fence, modulo 65536. -/
def entryOlder (e : Entry) (q : PutEntry) : Bool :=
  e.fenceMet || (decide (1 ≤ (q.seq - e.fence).toNat) && decide ((q.seq - e.fence).toNat ≤ 8))

/-! ### Candidates (R100 to R103) -/

/-- An access candidate: the port's work, with what the operation record needs (R96, R102). -/
structure Candidate where
  port : Port
  work : Work
  write : Bool
  place : Place
  base : Addr
  words : Nat
  deriving DecidableEq, Repr

/-- A table entry as a candidate (R97). -/
def candidateOfEntry (e : Entry) : Option Candidate :=
  e.place.map fun place =>
    { port := e.port
      work := .entry e.slot
      write := e.kind == .putSync
      place := place
      base := e.addr
      words := e.accessWords }

/-- A put-queue head as a candidate (R97). -/
def candidateOfHead (p : Port) (q : PutEntry) : Candidate :=
  { port := p
    work := .putHead
    write := true
    place := q.place
    base := q.addr
    words := q.length }

/-- The access candidate of a port, class (c): the older of its two sources (R102). -/
def accessCandidate (s : State) (p : Port) : Option Candidate :=
  match oldestIssuable s p, readyHead s p with
  | some e, some q => if entryOlder e q then candidateOfEntry e else some (candidateOfHead p q)
  | some e, none => candidateOfEntry e
  | none, some q => some (candidateOfHead p q)
  | none, none => none

/-- A forced refresh candidate, class (a), and its class in the operation record (R100). -/
def forcedCandidate (s : State) (r : RankId) : Option RefreshClass :=
  let c := s.rank r
  if c.state = .ready ∧ (s.settings.threshold.toNat : Int) ≤ c.balance ∧
      ¬ s.sched.refreshPaused then some .forced
  else if c.state = .wake ∧ 0 < c.wakeCount then some .wake
  else none

/-- A close-due candidate, class (b): the rank is READY with an open row, and its row-open timer has
run out (R101), or a warm reset is past its clearing point (R111). -/
def closeCandidate (s : State) (r : RankId) : Bool :=
  let c := s.rank r
  c.state == .ready && c.activity == .rowOpen && (c.closeDue || s.warm == .closing)

/-- A pull-in refresh candidate, class (d) (R103); none during a warm reset (R111). -/
def pullInCandidate (s : State) (r : RankId) : Bool :=
  let c := s.rank r
  c.state == .ready && c.activity == .idle && decide (-8 < c.balance) && s.settings.pullIn &&
    !s.sched.refreshPaused && s.warm == .idle

/-- The access candidate of a port is a row hit (R102). -/
def isHit (s : State) (c : Candidate) : Bool :=
  (s.rank c.place.rank).activity == .rowOpen &&
    (s.rank c.place.rank).openRow == some c.place.row

/-- The ports in scan order: from the round-robin pointer upward, wrapping from 3 to 0 (R105). -/
def scanOrder (pointer : Port) : List Port :=
  [pointer, pointer + 1, pointer + 2, pointer + 3]

/-- The access candidates in scan order (R102, R105); none during a warm reset (R111). -/
def scannedCandidates (s : State) : List Candidate :=
  if s.warm = .idle then (scanOrder s.sched.pointer).filterMap (accessCandidate s) else []

/-- The candidate is an eligible hit (R105): a row hit, unless it is the streak port's and the streak
count has reached the limit. -/
def eligibleHit (s : State) (c : Candidate) : Bool :=
  isHit s c &&
    !(s.sched.streakPort == some c.port &&
      decide (s.settings.streakLimit.toNat ≤ s.sched.streakCount))

/-- The winner among the access candidates (R105): under policy OPEN with a streak limit above 0, the
streak port's eligible hit, else the first eligible hit of the scan; otherwise the first candidate of
the scan. -/
def accessWinner (s : State) : Option Candidate :=
  let all := scannedCandidates s
  if s.settings.pagePolicy = .leaveOpen ∧ 0 < s.settings.streakLimit.toNat then
    let hits := all.filter (eligibleHit s)
    match hits.find? fun c => s.sched.streakPort == some c.port with
    | some c => some c
    | none =>
      match hits with
      | c :: _ => some c
      | [] => all.head?
  else all.head?

/-- The winner among the pull-in candidates: the higher balance, at equal balance rank 0 (R104). -/
def pullInWinner (s : State) : Option RankId :=
  if pullInCandidate s 0 then
    if pullInCandidate s 1 ∧ (s.rank 0).balance < (s.rank 1).balance then some 1 else some 0
  else if pullInCandidate s 1 then some 1
  else none

/-- What a decision picks (R104). -/
inductive Choice where
  | refresh (r : RankId) (cls : RefreshClass)
  | close (r : RankId)
  | access (c : Candidate)
  deriving DecidableEq, Repr

/-- The winner of a decision: the first class with a candidate, in the order forced refresh, close
due, access, pull-in refresh; the lower-numbered rank within the first two (R104). -/
def winner (s : State) : Option Choice :=
  match forcedCandidate s 0, forcedCandidate s 1 with
  | some k, _ => some (.refresh 0 k)
  | none, some k => some (.refresh 1 k)
  | none, none =>
    if closeCandidate s 0 then some (.close 0)
    else if closeCandidate s 1 then some (.close 1)
    else
      match accessWinner s with
      | some c => some (.access c)
      | none => (pullInWinner s).map fun r => .refresh r .pullIn

/-! ### Issue (R96 to R98, R106, R128) -/

/-- A rank at the issue of a REFRESH or CLOSE: BUSY, its open row, timer and mark cleared (R128). -/
def rankForRefresh (c : RankControl) : RankControl :=
  { c with activity := .busy, openRow := none, rowOpenTimer := none, closeDue := false }

/-- A rank at the issue of an ACCESS to a row (R128): a row hit leaves row, timer and mark; otherwise
the access's row becomes the open row, its timer starts from 8 µs and the mark is cleared. -/
def rankForAccess (c : RankControl) (row : Nat) : RankControl :=
  if c.activity = .rowOpen ∧ c.openRow = some row then { c with activity := .busy }
  else
    { c with
      activity := .busy, openRow := some row, rowOpenTimer := some rowOpenTime, closeDue := false }

/-- The round-robin pointer and the streak after a class-(c) win (R106). -/
def afterWin (x : Scheduler) (w : Port) (hit : Bool) : Scheduler :=
  { x with
    pointer := w + 1
    streakPort := some w
    streakCount :=
      if hit then (if x.streakPort = some w then min 15 (x.streakCount + 1) else 1) else 0 }

/-- The work of an ACCESS leaves the state that made it a candidate (R97): a table entry becomes
ISSUED, a put-queue head is marked in flight. -/
def markIssued (s : State) (p : Port) (w : Work) : State :=
  match w with
  | .entry n => updateEntry s n fun e => { e with state := .issued }
  | .putHead =>
    let u := s.port p
    s.setPort p
      { u with
        queue :=
          match u.queue with
          | [] => []
          | q :: qs => { q with inFlight := true } :: qs }

/-- A REFRESH is issued (R98, R110): its counter advances for a forced or pull-in refresh. -/
def issueRefresh (s : State) (r : RankId) (k : RefreshClass) : State :=
  let s' := { s.setRank r (rankForRefresh (s.rank r)) with bus := some (.refresh r k) }
  match k with
  | .forced => countDevice s' .forcedRefresh 1
  | .pullIn => countDevice s' .pullInRefresh 1
  | .wake => s'

/-- A CLOSE is issued (R98). -/
def issueClose (s : State) (r : RankId) : State :=
  { s.setRank r (rankForRefresh (s.rank r)) with bus := some (.close r) }

/-- The operation record of an access candidate under the policy in effect (R96, R107). -/
def accessOf (s : State) (c : Candidate) : Access :=
  { write := c.write
    rank := c.place.rank
    row := c.place.row
    port := c.port
    work := c.work
    base := c.base
    words := c.words
    policy := s.settings.pagePolicy }

/-- An ACCESS is issued (R96, R97, R106). -/
def issueAccess (s : State) (c : Candidate) : State :=
  let r := c.place.rank
  let s' := markIssued (s.setRank r (rankForAccess (s.rank r) c.place.row)) c.port c.work
  { s' with
    bus := some (.access (accessOf s c))
    sched := afterWin s.sched c.port (isHit s c) }

/-- The winner of a decision is issued. -/
def issue (s : State) (x : Choice) : State :=
  match x with
  | .refresh r k => issueRefresh s r k
  | .close r => issueClose s r
  | .access c => issueAccess s c

/-- A decision can be made: the bus is FREE and power-on reset is not asserted (R99, R117). -/
def mayDecide (s : State) : Bool :=
  s.bus.isNone && !s.powerOnAsserted

/-- A decision (R99). With the bus BUSY, or with no candidate, there is none to make and nothing
happens. -/
def makeDecision (s : State) : State :=
  if mayDecide s then
    match winner s with
    | some x => issue s x
    | none => s
  else s

end Sys2Proof.Machine
end

