-- ==== Sys2Proof/Machine/Ports.lean ====
section
/-! DEFINITION. The host port units: the exchange on a link (R153), answers and denials (R27, R44), the
garble count and FAULT (R154, R157), drains (R158) and the port cleanup (R162). -/

namespace Sys2Proof.Machine

/-! ### Drains (R158) -/

/-- A drain of port `p` is complete: it holds no entry, no queued PUT and no hold (R158). -/
def drained (s : State) (p : Port) : Bool :=
  heldCount s p == 0 && (s.port p).queue.isEmpty && (s.port p).hold.isNone

/-- A DRAINING port whose drain is complete becomes QUIET (R158). -/
def settleDrain (s : State) (p : Port) : State :=
  if (s.port p).mode = .draining ∧ drained s p then
    s.setPort p { s.port p with mode := .quiet }
  else s

/-- Every port's drain is tested (R158): a completed write can free leftovers of any port. -/
def settleDrains (s : State) : State :=
  allPorts.foldl settleDrain s

/-! ### The port cleanup (R162) -/

/-- What a port cleanup makes of an entry of its port (R24): an ISSUED entry is orphaned, every other
is freed. -/
def cleanEntry (p : Port) (e : Entry) : Option Entry :=
  if e.port = p then
    if e.state = .issued then some { e with orphan := true } else none
  else some e

/-- The words that a port cleanup drops: the undelivered words of the port's READY entries (R24). -/
def cleanupDrops (s : State) (p : Port) : List ReadWord :=
  (s.table.filter fun e => e.port == p && e.state != .issued).flatMap (·.readData)

/-- The port cleanup (R162): entries freed or orphaned (R24), hold released and last hold expired
cleared (R91), garble count 0 and events cleared (R154, R163), and after all that grants evaluated
once. -/
def portCleanup (s : State) (p : Port) : State :=
  let s' := suppress { s with table := s.table.filterMap (cleanEntry p) } (cleanupDrops s p)
  let s'' := s'.setPort p
    { s'.port p with
      hold := none
      lastHoldExpired := false
      garbleCount := 0
      flags := 0
      record := emptyRecord }
  evaluateGrants s''

/-! ### Answers (R27, R153) -/

/-- An answer of port `p` is sent (R153). A frame whose beginning was marked had the earlier answers
still being sent, or none; one whose beginning was not marked began after they had ended
(notes/assumptions/7.md). -/
def reply (s : State) (p : Port) (a : Answer) : State :=
  let u := s.port p
  s.setPort p
    { u with
      answers := if u.receiving.isNone then [a] else u.answers ++ [a]
      receiving := none
      freshLink := false }

/-- A request is refused with a reason other than GARBLED: DENIED is raised with the address carried by
the request, and DENY is answered (R44). -/
def deny (s : State) (p : Port) (tag : Byte) (addr : Addr) (reason : Reason) : State :=
  reply (raiseEvent s p .denied addr (.deny reason)) p (.deny tag reason)

/-- Port `p` enters FAULT (R157): with its cleanup, and PORT_FAULT(p) is set. -/
def enterFault (s : State) (p : Port) : State :=
  let s' := portCleanup (s.setPort p { s.port p with mode := .fault }) p
  setDeviceFlag s' (portFaultBit p)

/-- A garbled frame is taken (R29, R154): the count advances, or, when it reaches 4, returns to 0 and
the port enters FAULT unless it is there already (R157); the answer is DENY GARBLED. -/
def takeGarbled (s : State) (p : Port) (tag : Byte) : State :=
  let u := s.port p
  let s' :=
    if u.garbleCount + 1 < 4 then s.setPort p { u with garbleCount := u.garbleCount + 1 }
    else if u.mode = .fault then s.setPort p { u with garbleCount := 0 }
    else enterFault s p
  reply s' p (.deny tag .garbled)

/-- A frame that passes the header check returns the garble count to 0 (R29, R154). -/
def passHeader (s : State) (p : Port) : State :=
  s.setPort p { s.port p with garbleCount := 0 }

/-- How a link treats a frame that ends now (R29, R30, R153, R160, R186). -/
inductive Taking where
  /-- The frame is not taken. -/
  | ignored
  /-- A warm reset is in progress (R30). -/
  | warm
  /-- The frame overlapped an answer (R153). -/
  | garbled
  /-- The frame is judged by its header. -/
  | judged
  deriving DecidableEq, Repr

/-- How port `p` treats a frame that ends now. -/
def taking (s : State) (p : Port) : Taking :=
  let u := s.port p
  if s.powerOnAsserted ∨ u.resetLine ∨ u.receiving = some .heldOff then .ignored
  else if s.warm ≠ .idle then .warm
  else if u.receiving = some .overlapping then .garbled
  else .judged

/-- A frame of port `p` ends. One that is not taken leaves nothing (R160); during a warm reset it is
answered DENY PORT_OFF and nothing else happens (R30); one that overlapped an answer is a garbled one
(R153); otherwise it is decided as `judge` gives. -/
def endFrame (s : State) (p : Port) (tag : Byte) (judge : State → State) : State :=
  match taking s p with
  | .ignored => s.setPort p { s.port p with receiving := none }
  | .warm => reply s p (.deny tag .portOff)
  | .garbled => takeGarbled s p tag
  | .judged => judge s

/-- A host starts a frame (R153): overlapping when an answer is still being sent, unless it is the
first after a warm reset; held off under an asserted reset input (R160, R186). -/
def beginFrame (s : State) (p : Port) : State :=
  let u := s.port p
  let start : FrameStart :=
    if s.powerOnAsserted ∨ u.resetLine then .heldOff
    else if u.answers ≠ [] ∧ ¬ u.freshLink then .overlapping
    else .clean
  s.setPort p { u with receiving := some start, freshLink := false }

/-- The answer being sent has been sent (R153). -/
def finishAnswer (s : State) (p : Port) : State :=
  s.setPort p { s.port p with answers := (s.port p).answers.tail }

end Sys2Proof.Machine
end

