-- ==== Sys2Proof/Machine/Warm.lean ====
section
/-! DEFINITION. The warm reset: the clearing point (R182), the test for its end (R183), and its start
(R180). -/

namespace Sys2Proof.Machine

/-- A port unit at the clearing point (R182): OFF, queue and counts empty, no hold, flags and record
clear, mask and limit at their defaults, counters and snapshots 0. The port-reset line and the link's
exchange are as they are (R184). -/
def clearedPort (u : PortUnit) : PortUnit :=
  { idlePort with
    resetLine := u.resetLine
    receiving := u.receiving
    answers := u.answers
    freshLink := u.freshLink }

/-- The effects of the clearing point on the blocks (R182). -/
def clearAll (s : State) : State :=
  { s with
    warm := .closing
    table := []
    ports := s.ports.map clearedPort
    windows := Oct.all offWindow
    sched := defaultScheduler
    settings := defaultSettings
    counters := zeroDeviceCounters
    snapshots := zeroDeviceCounters
    rowSnapshots := { r0 := 0, r1 := 0 }
    deviceMask := defaultDeviceMask }

/-- The bus is FREE and no READY rank is OPEN (R183). -/
def rowsClosed (s : State) : Bool :=
  s.bus.isNone &&
    !((s.rank 0).state == .ready && (s.rank 0).activity == .rowOpen) &&
    !((s.rank 1).state == .ready && (s.rank 1).activity == .rowOpen)

/-- The link of a port at the end of a warm reset: its next frame begins a new exchange and is not
judged against an answer sent earlier (R153). -/
def freshenLink (u : PortUnit) : PortUnit :=
  { u with
    freshLink := true
    receiving := if u.receiving = some .overlapping then some .clean else u.receiving }

/-- The end of a warm reset (R183), taken when its test holds past the clearing point: WARM_DONE is
set, the command state returns to IDLE, and the ports take frames again. -/
def endWarmReset (s : State) : State :=
  if s.warm = .closing ∧ rowsClosed s then
    setDeviceFlag { s with warm := .idle, ports := s.ports.map freshenLink } warmDoneBit
  else s

/-- What a warm reset does at a completion (R181, R183): while it waits for the bus, the clearing
point; then the test for its end. -/
def warmStep (s : State) : State :=
  endWarmReset (if s.warm = .waiting then clearAll s else s)

/-- A warm reset begins (R180): the command state becomes BUSY, and with the bus FREE the clearing
point is taken in the same happening. -/
def beginWarmReset (s : State) : State :=
  let s' := { s with warm := .waiting }
  if s.bus.isNone then warmStep s' else s'

end Sys2Proof.Machine
end

