-- ==== Sys2Proof/Machine/Bus.lean ====
section
/-! DEFINITION. The meanings of the memory-bus events: the decision (R99) and the completions (R119,
R125, R132, R133). -/

namespace Sys2Proof.Machine

/-- A rank at the completion of an ACCESS (R128): OPEN under policy OPEN; under policy CLOSE the row is
closed and the rank is IDLE. -/
def rankAfterAccess (c : RankControl) (policy : PagePolicy) : RankControl :=
  match policy with
  | .leaveOpen => { c with activity := .rowOpen }
  | .close => { c with activity := .idle, openRow := none, rowOpenTimer := none, closeDue := false }

/-- The range of an access lies within the present memory (R73, R75). -/
def withinMemory (s : State) (a : Access) : Bool :=
  decide (a.span.stop ≤ totalCapacity s)

/-- The bus becomes FREE at the completion of an ACCESS, and the rank is updated (R96, R128). -/
def freeBusAfterAccess (s : State) (a : Access) : State :=
  { s.setRank a.rank (rankAfterAccess (s.rank a.rank) a.policy) with bus := none }

/-! ### Reads -/

/-- A read completes at its entry (R4, R13, R142): an orphan is freed and the marks among its words are
suppressed; otherwise the entry becomes READY with the words read, and its discard timer starts. -/
def deliverRead (s : State) (e : Entry) (words : List ReadWord) : State :=
  if e.orphan then suppress (freeEntry s e.slot) words
  else
    updateEntry s e.slot fun x =>
      { x with state := .ready, readData := words, discardTimer := freshDiscard s }

/-- The entry an access serves, if it serves one that is ISSUED. -/
def issuedEntry (s : State) (a : Access) : Option Entry :=
  match a.work with
  | .entry n =>
    match entryAt s n with
    | some e => if e.state = .issued then some e else none
    | none => none
  | .putHead => none

/-- A read ACCESS completes (R132). -/
def completeRead (s : State) (a : Access) : State :=
  let words := s.memory.readWords s.powerOns a.base.toNat a.words
  let s := freeBusAfterAccess s a
  let s :=
    match issuedEntry s a with
    | some e => deliverRead s e words
    | none => s
  warmStep (settleDrain (evaluateGrants s) a.port)

/-! ### Writes -/

/-- The words that a write ACCESS writes: those of its entry or of its port's queue head. -/
def writeData (s : State) (a : Access) : List HeldWord :=
  match a.work with
  | .entry _ =>
    match issuedEntry s a with
    | some e => e.writeData
    | none => []
  | .putHead =>
    match (s.port a.port).queue with
    | q :: _ => q.words
    | [] => []

/-- The head of port `p`'s queue has been written (R51): it is removed, the written count advances,
and the fences that wait for it are met. -/
def retireHead (s : State) (p : Port) : State :=
  let u := s.port p
  let written := u.written + 1
  let s' := s.setPort p { u with queue := u.queue.tail, written := written }
  { s' with table := s'.table.map (meetFence p written) }

/-- A PUT_SYNC's write completes at its entry (R5, R13, R141): an orphan is freed; otherwise the entry
becomes READY with its result, marked when a byte carries a mark, and its discard timer starts. -/
def deliverWrite (s : State) (e : Entry) : State :=
  if e.orphan then freeEntry s e.slot
  else
    updateEntry s e.slot fun x =>
      { x with
        state := .ready
        result := some (anyMarked x.writeData)
        discardTimer := freshDiscard s }

/-- A write's completion updates the work it served (R51, R5). -/
def retireWrite (s : State) (a : Access) : State :=
  match a.work with
  | .putHead => retireHead s a.port
  | .entry _ =>
    match issuedEntry s a with
    | some e => deliverWrite s e
    | none => s

/-- A write ACCESS completes (R132): the bytes are stored (R140), the work is updated, the coherence
search runs (R59), and the hold unit evaluates grants (R82). -/
def completeWrite (s : State) (a : Access) : State :=
  let words := writeData s a
  let s := { s with memory := s.memory.storeWords a.base.toNat words }
  let s := freeBusAfterAccess s a
  let s := coherenceSearch (retireWrite s a) (writtenWords a.base.toNat words)
  warmStep (settleDrains (evaluateGrants s))

/-! ### Refreshes and closes -/

/-- A rank whose operation ends with no row open: IDLE (R125, R133). -/
def goIdle (c : RankControl) : RankControl :=
  { c with activity := .idle }

/-- A REFRESH of a READY rank completes (R125): the balance falls by one, the row counter advances. -/
def completeRefresh (s : State) (r : RankId) : State :=
  let c := s.rank r
  let c' : RankControl := { goIdle c with balance := c.balance - 1, rowCounter := c.rowCounter + 1 }
  warmStep { s.setRank r c' with bus := none }

/-- Every present rank is READY (R120). -/
def allReady (s : State) : Bool :=
  ((s.rank 0).state == .ready || (s.rank 0).state == .absent) &&
    ((s.rank 1).state == .ready || (s.rank 1).state == .absent)

/-- A rank that has completed its last initialization refresh (R120). -/
def becomeReady (s : State) (c : RankControl) : RankControl :=
  { c with
    state := .ready
    activity := .idle
    openRow := none
    balance := 0
    intervalTimer := some (intervalTime s.settings.interval)
    doubt := false }

/-- An initialization refresh completes (R119): the wake count falls, the row counter advances, and at
0 the rank becomes READY; INIT_DONE is set when it is the last present rank (R120). -/
def completeInitialization (s : State) (r : RankId) : State :=
  let c := s.rank r
  let c' : RankControl := { goIdle c with wakeCount := c.wakeCount - 1, rowCounter := c.rowCounter + 1 }
  let s' := { s with bus := none }
  warmStep <|
    if c'.wakeCount = 0 then
      let s' := s'.setRank r (becomeReady s c')
      if allReady s' then setDeviceFlag s' initDoneBit else s'
    else s'.setRank r c'

/-- A CLOSE completes (R133). -/
def completeClose (s : State) (r : RankId) : State :=
  warmStep { s.setRank r (goIdle (s.rank r)) with bus := none }

/-! ### The meanings -/

/-- DECISION (R99). -/
def execDecision (s : State) : Host.Outcome State Fault Refusal :=
  .next (makeDecision s)

/-- ACCESS_READ_COMPLETE (R132). With no read in progress there is no completion and nothing happens
(notes/assumptions/4.md). -/
def execAccessReadComplete (s : State) : Host.Outcome State Fault Refusal :=
  match s.bus with
  | some (.access a) =>
    if a.write then .next s
    else if withinMemory s a then .next (completeRead s a)
    else .fault .accessBeyondMemory
  | _ => .next s

/-- ACCESS_WRITE_COMPLETE (R51, R132). With no write in progress nothing happens. -/
def execAccessWriteComplete (s : State) : Host.Outcome State Fault Refusal :=
  match s.bus with
  | some (.access a) =>
    if !a.write then .next s
    else if withinMemory s a then .next (completeWrite s a)
    else .fault .accessBeyondMemory
  | _ => .next s

/-- REFRESH_COMPLETE (R125): the completion of a forced or pull-in refresh. With none in progress
nothing happens. -/
def execRefreshComplete (s : State) : Host.Outcome State Fault Refusal :=
  match s.bus with
  | some (.refresh r .forced) => .next (completeRefresh s r)
  | some (.refresh r .pullIn) => .next (completeRefresh s r)
  | _ => .next s

/-- INITIALIZATION_REFRESH_COMPLETE (R119). With none in progress nothing happens. -/
def execInitializationRefreshComplete (s : State) : Host.Outcome State Fault Refusal :=
  match s.bus with
  | some (.refresh r .wake) => .next (completeInitialization s r)
  | _ => .next s

/-- CLOSE_COMPLETE (R133). With none in progress nothing happens. -/
def execCloseComplete (s : State) : Host.Outcome State Fault Refusal :=
  match s.bus with
  | some (.close r) => .next (completeClose s r)
  | _ => .next s

end Sys2Proof.Machine
end

