-- ==== Sys2Proof/Machine/Commands.lean ====
section
/-! DEFINITION. The register file as written: data bytes at an index (R169, R170, R173), and the
meanings of the management commands (R174). -/

namespace Sys2Proof.Machine

/-- A data byte is taken at a register, with an effect, and the index pointer advances past it (R169).
While power-on reset is asserted the port takes nothing (R168, R186). -/
def takeWrite (s : State) (x : Register) (effect : State → State) : State :=
  if s.powerOnAsserted then s else { effect s with indexPointer := x.index + 1 }

/-- A command byte is refused (R174). -/
def refuseCommand (s : State) : State :=
  setDeviceFlag s cmdRefusedBit

/-- A command byte is taken (R174): with the command state IDLE it takes effect, with it BUSY it is
refused. -/
def takeCommand (s : State) (effect : State → State) : State :=
  takeWrite s .command fun s => if s.warm = .idle then effect s else refuseCommand s

/-! ### The commands' effects -/

/-- ENABLE(p) (R156). -/
def enablePort (p : Port) (s : State) : State :=
  let u := s.port p
  match u.mode with
  | .off | .quiet | .fault => s.setPort p { u with mode := .active, garbleCount := 0 }
  | .active | .draining => s

/-- DRAIN(p) (R156, R158). -/
def drainPort (p : Port) (s : State) : State :=
  let u := s.port p
  match u.mode with
  | .active => settleDrain (s.setPort p { u with mode := .draining }) p
  | .off | .draining | .quiet | .fault => s

/-- REVOKE(p) (R89). -/
def revokeHold (p : Port) (s : State) : State :=
  settleDrain (expireHold s p .revoked) p

/-- REFRESH_PAUSE and REFRESH_RESUME (R109). -/
def setPause (paused : Bool) (s : State) : State :=
  { s with sched := { s.sched with refreshPaused := paused } }

/-- CLEAR_DOUBT(r) (R127). -/
def clearRankDoubt (r : RankId) (s : State) : State :=
  s.setRank r { s.rank r with doubt := false }

/-- CLEAR_COUNTERS (R175): all twenty counters; the snapshots stay. -/
def clearAllCounters (s : State) : State :=
  { s with
    counters := zeroDeviceCounters
    ports := s.ports.map fun u => { u with counters := zeroPortCounters } }

/-! ### The meanings of the commands -/

/-- ENABLE (R156). -/
def execEnable (p : Port) (s : State) : Host.Outcome State Fault Refusal :=
  .next (takeCommand s (enablePort p))

/-- DRAIN (R156). -/
def execDrain (p : Port) (s : State) : Host.Outcome State Fault Refusal :=
  .next (takeCommand s (drainPort p))

/-- REVOKE (R89). -/
def execRevoke (p : Port) (s : State) : Host.Outcome State Fault Refusal :=
  .next (takeCommand s (revokeHold p))

/-- REFRESH_PAUSE (R109). -/
def execRefreshPause (s : State) : Host.Outcome State Fault Refusal :=
  .next (takeCommand s (setPause true))

/-- REFRESH_RESUME (R109). -/
def execRefreshResume (s : State) : Host.Outcome State Fault Refusal :=
  .next (takeCommand s (setPause false))

/-- CLEAR_DOUBT (R127). -/
def execClearDoubt (r : RankId) (s : State) : Host.Outcome State Fault Refusal :=
  .next (takeCommand s (clearRankDoubt r))

/-- CLEAR_COUNTERS (R175). -/
def execClearCounters (s : State) : Host.Outcome State Fault Refusal :=
  .next (takeCommand s clearAllCounters)

/-- WARM_RESET (R180). -/
def execWarmReset (s : State) : Host.Outcome State Fault Refusal :=
  .next (takeCommand s beginWarmReset)

/-- UNKNOWN_COMMAND (R174): refused in either command state. -/
def execUnknownCommand (_value : Byte) (s : State) : Host.Outcome State Fault Refusal :=
  .next (takeWrite s .command refuseCommand)

/-! ### Settings (R173) -/

/-- A written value adjusted into a range (R172). -/
def clampByte (lo hi v : Byte) : Byte :=
  if v.toNat < lo.toNat then lo else if hi.toNat < v.toNat then hi else v

/-- A write to a setting stores the adjusted value (R14, R18, R78, R100, R107, R108, R110, R122). -/
def writeSetting (x : Register) (v : Byte) (s : State) : State :=
  let t := s.settings
  match x with
  | .discardSetting => { s with settings := { t with discard := clampByte 1 255 v } }
  | .holdTime => { s with settings := { t with holdTime := clampByte 1 200 v } }
  | .interval => { s with settings := { t with interval := clampByte 10 159 v } }
  | .threshold => { s with settings := { t with threshold := clampByte 1 8 v } }
  | .streakLimit => { s with settings := { t with streakLimit := clampByte 0 15 v } }
  | .pagePolicy =>
    { s with settings := { t with pagePolicy := if v.getLsbD 0 then .close else .leaveOpen } }
  | .pullIn => { s with settings := { t with pullIn := v.getLsbD 0 } }
  | .limit p => s.setPort p { s.port p with limit := clampByte 2 10 v }
  | .deviceCode | .revisionCode | .deviceFlags | .deviceMask | .command | .pauseState
  | .eventMask _ | .portState _ | .heldCount _ | .queueDepth _ | .rankState _ | .balance _
  | .counterLow _ | .counterHigh _ | .doubtPresence _ | .staging _ _ | .control _
  | .unassigned => s

/-- A write to the device flags clears each flag written with 1 (R177). -/
def clearDeviceFlags (v : Byte) (s : State) : State :=
  { s with deviceFlags := s.deviceFlags &&& ~~~v }

/-- A write of the device-flag mask stores it (R178). -/
def writeDeviceMask (v : Byte) (s : State) : State :=
  { s with deviceMask := v }

/-- A write of a port's event mask stores bits 0 to 4 (R166, R173). -/
def writeEventMask (p : Port) (v : Byte) (s : State) : State :=
  s.setPort p { s.port p with eventMask := v.setWidth 5 }

/-- The effect of a byte taken at the command register, by its command (R174). -/
def commandEffect (v : Byte) (s : State) : State :=
  let whenIdle (effect : State → State) : State :=
    if s.warm = .idle then effect s else refuseCommand s
  match commandOfByte v with
  | .enable p => whenIdle (enablePort p)
  | .drain p => whenIdle (drainPort p)
  | .revoke p => whenIdle (revokeHold p)
  | .refreshPause => whenIdle (setPause true)
  | .refreshResume => whenIdle (setPause false)
  | .clearDoubt r => whenIdle (clearRankDoubt r)
  | .clearCounters => whenIdle clearAllCounters
  | .warmReset => whenIdle beginWarmReset
  | _ => refuseCommand s

/-- The effect of a data byte taken at a register, by its access type (R170). -/
def writeEffect (x : Register) (v : Byte) (s : State) : State :=
  match x with
  | .deviceFlags => clearDeviceFlags v s
  | .deviceMask => writeDeviceMask v s
  | .command => commandEffect v s
  | .eventMask p => writeEventMask p v s
  | .staging w f => stageByte s w f v
  | .control w => activateWindow s w v
  | _ => writeSetting x v s

/-! ### The meanings of the register writes -/

/-- DEVICE_FLAGS_WRITE (R177). -/
def execDeviceFlagsWrite (v : Byte) (s : State) : Host.Outcome State Fault Refusal :=
  .next (takeWrite s .deviceFlags (clearDeviceFlags v))

/-- WINDOW_STAGING_WRITE (R67). -/
def execWindowStagingWrite (w : WindowId) (f : StagingField) (v : Byte) (s : State) :
    Host.Outcome State Fault Refusal :=
  .next (takeWrite s (.staging w f) fun s => stageByte s w f v)

/-- WINDOW_CONTROL_WRITE (R68). -/
def execWindowControlWrite (w : WindowId) (v : Byte) (s : State) :
    Host.Outcome State Fault Refusal :=
  .next (takeWrite s (.control w) fun s => activateWindow s w v)

/-- DEVICE_FLAG_MASK_WRITE (R178). -/
def execDeviceFlagMaskWrite (v : Byte) (s : State) : Host.Outcome State Fault Refusal :=
  .next (takeWrite s .deviceMask (writeDeviceMask v))

/-- EVENT_MASK_WRITE (R166). -/
def execEventMaskWrite (p : Port) (v : Byte) (s : State) : Host.Outcome State Fault Refusal :=
  .next (takeWrite s (.eventMask p) (writeEventMask p v))

/-- REGISTER_WRITE (R170): the byte is taken at the index, with the effect of the register there. An
index whose write has a row of its own has that row's effect (notes/assumptions/21.md). -/
def execRegisterWrite (index v : Byte) (s : State) : Host.Outcome State Fault Refusal :=
  .next <|
    if s.powerOnAsserted then s
    else { writeEffect (registerAt index) v s with indexPointer := index + 1 }

/-- INDEX_POINTER_SET (R169). -/
def execIndexPointerSet (v : Byte) (s : State) : Host.Outcome State Fault Refusal :=
  .next (if s.powerOnAsserted then s else { s with indexPointer := v })

end Sys2Proof.Machine
end

