-- ==== Sys2Proof/Machine/Registers.lean ====
section
/-! DEFINITION. The register file as read: the byte at every index (R170 to R173), and the meaning of
the one read that changes state, COUNTER_LOW_BYTE_READ (R171). -/

namespace Sys2Proof.Machine

/-- The port state code (R172). -/
def modeCode (m : PortMode) : Byte :=
  match m with
  | .off => 0
  | .active => 1
  | .draining => 2
  | .quiet => 3
  | .fault => 4

/-- The rank state code (R172). -/
def rankStateCode (x : RankState) : Byte :=
  match x with
  | .absent => 0
  | .pause => 1
  | .wake => 2
  | .ready => 3

/-- The page policy's setting value (R107). -/
def policyCode (x : PagePolicy) : Byte :=
  match x with
  | .leaveOpen => 0
  | .close => 1

/-- A Boolean as bit `i` of a byte. -/
def bitByte (i : Nat) (b : Bool) : Byte :=
  if b then BitVec.ofNat 8 (2 ^ i) else 0

/-- The byte that a read of a register returns, as it stands at that moment (R170, R172, R173). A
counter's low byte is the counter's; its high byte is its snapshot's (R171). -/
def readRegister (s : State) (x : Register) : Byte :=
  match x with
  | .deviceCode => 0x44
  | .revisionCode => 0x01
  | .deviceFlags => s.deviceFlags
  | .deviceMask => s.deviceMask
  | .command => bitByte 0 (s.warm != .idle)
  | .pauseState => bitByte 0 s.sched.refreshPaused
  | .discardSetting => s.settings.discard
  | .holdTime => s.settings.holdTime
  | .interval => s.settings.interval
  | .threshold => s.settings.threshold
  | .streakLimit => s.settings.streakLimit
  | .pagePolicy => policyCode s.settings.pagePolicy
  | .pullIn => bitByte 0 s.settings.pullIn
  | .limit p => (s.port p).limit
  | .eventMask p => (s.port p).eventMask.setWidth 8
  | .portState p => modeCode (s.port p).mode
  | .heldCount p => BitVec.ofNat 8 (heldCount s p)
  | .queueDepth p => BitVec.ofNat 8 (s.port p).queue.length
  | .rankState r => rankStateCode (s.rank r).state
  | .balance r => BitVec.ofInt 8 (s.rank r).balance
  | .counterLow c => (counterValue s c).extractLsb' 0 8
  | .counterHigh c => (snapshotValue s c).extractLsb' 8 8
  | .doubtPresence r =>
    bitByte 0 (s.rank r).doubt ||| (s.rank r).presence.setWidth 8 <<< 4
  | .staging w f => (s.window w).staging.byte f
  | .control w =>
    bitByte 0 (s.window w).staging.prefetchable ||| bitByte 1 (s.window w).staging.claimable |||
      bitByte 6 (s.window w).staged ||| bitByte 7 (inUse s w)
  | .unassigned => 0x00

/-- The byte that a read of an index returns (R169, R170). -/
def readIndex (s : State) (index : Byte) : Byte :=
  readRegister s (registerAt index)

/-- A counter's low byte is read (R171): the snapshot is loaded with the whole value, its low byte is
sent, and the index pointer advances past it (R169). -/
def readCounterLow (s : State) (c : CounterId) : State :=
  let v := counterValue s c
  { loadSnapshot s c v with
    i2cSent := v.extractLsb' 0 8
    indexPointer := (Register.counterLow c).index + 1 }

/-- A byte of a read transaction is sent (R169): the byte at the index the pointer names, which then
advances by one. No row of the table is a read of an index other than a counter's low byte
(notes/assumptions/11.md). -/
def sendByte (s : State) : State :=
  match registerAt s.indexPointer with
  | .counterLow c => readCounterLow s c
  | x => { s with i2cSent := readRegister s x, indexPointer := s.indexPointer + 1 }

/-- The management port acknowledges an I2C address (R168): its own, unless power-on reset is
asserted. -/
def acknowledges (s : State) (address : BitVec 7) : Bool :=
  !s.powerOnAsserted && address == s.slaveAddress

/-- COUNTER_LOW_BYTE_READ (R171). While power-on reset is asserted the port takes nothing (R186). -/
def execCounterLowByteRead (c : CounterId) (s : State) : Host.Outcome State Fault Refusal :=
  .next (if s.powerOnAsserted then s else readCounterLow s c)

end Sys2Proof.Machine
end

