-- ==== Sys2Proof/Machine/Ops.lean ====
section
/-! DEFINITION. The shared operations of the request kinds: the gate of steps 7 to 9 of the check order
(R28), admission (R42), handover and delivery (R10 to R12, R144), and the decision of each kind. -/

namespace Sys2Proof.Machine

/-- The port is in OFF or FAULT: step 3 refuses every kind but STATUS (R32). -/
def refusesAll (s : State) (p : Port) : Bool :=
  (s.port p).mode == .off || (s.port p).mode == .fault

/-- What steps 7 to 9 of the check order give (R28): a refusal, or the window index and the rank and
row. -/
inductive Gate where
  | refuse (reason : Reason)
  | pass (w : WindowId) (place : Place)
  deriving DecidableEq, Repr

/-- Steps 7, 8 and 9 of the check order: QUIESCED in a DRAINING or QUIET port (R37), WINDOW when the
window map refuses (R38), NO_MEMORY beyond the present ranks (R39). -/
def gate (s : State) (p : Port) (k : Purpose) (addr : Addr) : Gate :=
  if (s.port p).mode = .draining ∨ (s.port p).mode = .quiet then .refuse .quiesced
  else
    match decodeWindow s p k addr with
    | none => .refuse .window
    | some w =>
      match placeOf s addr with
      | none => .refuse .noMemory
      | some place => .pass w place

/-- A request is answered AGAIN for lack of space: the full counter advances (R43). -/
def againFull (s : State) (p : Port) (tag : Byte) : State :=
  reply (countPort s p .full 1) p (.again tag)

/-- Step 12 (R42): the entry is created where there is room, with the effects of its creation, and the
answer is AGAIN either way. -/
def admitRequest (s : State) (p : Port) (tag : Byte) (make : State → Slot → Entry)
    (created : State → State) : State :=
  match makeRoom s p with
  | none => againFull s p tag
  | some (s', n) => reply (created (addEntry s' (make s' n))) p (.again tag)

/-- A new entry of port `p` (R2), with its fence (R54). -/
def newEntry (s : State) (n : Slot) (p : Port) (k : EntryKind) (addr : Addr) (length : Nat)
    (place : Option Place) (w : WindowId) : Entry :=
  { slot := n
    port := p
    kind := k
    state := .queued
    addr := addr
    length := length
    place := place
    window := w
    prefetch := k == .fetch && (s.window w).active.prefetchable
    fence := (s.port p).taken
    fenceMet := (s.port p).taken == (s.port p).written
    writeData := []
    readData := []
    result := none
    leftover := false
    orphan := false
    discardTimer := none }

/-- HOST_PARITY at the taking of write data (R45, R139): when a byte is marked, the event is raised
with the request's address and the host-parity counter advances by one. -/
def noteHostParity (s : State) (p : Port) (addr : Addr) (words : List HeldWord) : State :=
  if anyMarked words then
    countPort (raiseEvent s p .hostParity addr .none) p .hostParity 1
  else s

/-! ### Delivery and handover -/

/-- A DATA answer with the given words, the first of them at `addr` (R144): when words are marked,
POISON is raised with the address of the lowest-addressed one, and the delivered-poison counter
advances by their number. -/
def deliver (s : State) (p : Port) (tag : Byte) (addr : Addr) (words : List ReadWord) : State :=
  let s' :=
    if markCount words = 0 then s
    else
      countPort (raiseEvent s p .poison (addWords addr (words.findIdx (·.poison))) .none) p
        .deliveredPoison (markCount words)
  reply s' p (.data tag words)

/-- What becomes of a READY FETCH entry or leftover whose first `n` words are delivered (R11, R12): it
is freed with nothing left; it is freed with the rest suppressed when another FETCH entry of its port
holds the address of the first undelivered word (R7); otherwise it stays, or becomes, a leftover, its
timer started afresh. -/
def keepRest (s : State) (e : Entry) (n : Nat) : State :=
  let rest := e.readData.drop n
  let addr := addWords e.addr n
  if rest.isEmpty then freeEntry s e.slot
  else if fetchKeyHeld s e.port addr then suppress (freeEntry s e.slot) rest
  else
    updateEntry s e.slot fun x =>
      { x with
        addr := addr
        length := rest.length
        leftover := true
        readData := rest
        discardTimer := freshDiscard s }

/-- The handover of `n` words of a READY FETCH entry or leftover (R11, R12). -/
def handOver (s : State) (p : Port) (tag : Byte) (e : Entry) (n : Nat) : State :=
  settleDrain (deliver (keepRest s e n) p tag e.addr (e.readData.take n)) p

/-- A matched FETCH (R8, R10 to R12): a leftover is hit whatever the length; another entry must agree
on the length, and is handed over when READY. -/
def fetchMatched (s : State) (p : Port) (tag : Byte) (addr : Addr) (len : Byte) (e : Entry) :
    State :=
  if e.leftover then handOver s p tag e len.toNat
  else if e.length ≠ len.toNat then deny s p tag addr .mismatch
  else if e.state = .ready then handOver s p tag e e.length
  else reply s p (.again tag)

/-- A matched PUT_SYNC (R8, R10): length, masks and masked data must agree; a READY entry is answered
DONE with the marked flag and freed. -/
def putSyncMatched (s : State) (p : Port) (tag : Byte) (addr : Addr) (len : Byte)
    (data : List LinkWord) (e : Entry) : State :=
  if e.length ≠ len.toNat ∨ ¬ dataAgrees e.writeData data then deny s p tag addr .mismatch
  else if e.state = .ready then
    reply (settleDrain (freeEntry s e.slot) p) p (.done tag (e.result == some true))
  else reply s p (.again tag)

/-- A matched CLAIM (R8, R10): the length must agree; a READY entry is freed, and answered DONE when
granted = yes, DENY LATE when granted = no. -/
def claimMatched (s : State) (p : Port) (tag : Byte) (addr : Addr) (len : Byte) (e : Entry) :
    State :=
  if e.length ≠ len.toNat then deny s p tag addr .mismatch
  else if e.state = .ready then
    let s' := settleDrain (freeEntry s e.slot) p
    if e.result = some true then reply s' p (.done tag false) else deny s' p tag addr .late
  else reply s p (.again tag)

/-! ### Fresh requests (steps 7 to 12) -/

/-- A FETCH that matched nothing (R37 to R39, R42). -/
def fetchFresh (s : State) (p : Port) (tag : Byte) (addr : Addr) (len : Byte) : State :=
  match gate s p .fetch addr with
  | .refuse r => deny s p tag addr r
  | .pass w place =>
    admitRequest s p tag (fun s n => newEntry s n p .fetch addr len.toNat (some place) w) id

/-- A PUT_SYNC that matched nothing (R37 to R39, R42, R45). -/
def putSyncFresh (s : State) (p : Port) (tag : Byte) (addr : Addr) (len : Byte)
    (data : List LinkWord) : State :=
  match gate s p .write addr with
  | .refuse r => deny s p tag addr r
  | .pass w place =>
    let words := heldWordsOf data
    admitRequest s p tag
      (fun s n =>
        { newEntry s n p .putSync addr len.toNat (some place) w with writeData := words })
      (fun s => noteHostParity s p addr words)

/-- The port has an active hold or a CLAIM entry in any state (R40). -/
def claimsAlready (s : State) (p : Port) : Bool :=
  (s.port p).hold.isSome || s.table.any fun e => e.port == p && e.kind == .claim

/-- A CLAIM that matched nothing (R37 to R40, R42): its creation clears last hold expired and grants
are evaluated. -/
def claimFresh (s : State) (p : Port) (tag : Byte) (addr : Addr) (len : Byte) : State :=
  match gate s p .claim addr with
  | .refuse r => deny s p tag addr r
  | .pass w _ =>
    if claimsAlready s p then deny s p tag addr .double
    else
      admitRequest s p tag (fun s n => newEntry s n p .claim addr len.toNat none w)
        (fun s => evaluateGrants (s.setPort p { s.port p with lastHoldExpired := false }))

/-! ### PUT (R41) -/

/-- The put queue holds 8 PUTs (R41, R47). -/
def queueFull (s : State) (p : Port) : Bool :=
  decide (8 ≤ (s.port p).queue.length)

/-- A foreign hold or a foreign pending claim holds back a PUT of port `p` over the range (R41,
R188). -/
def putHeldBack (s : State) (p : Port) (a : Span) : Bool :=
  foreignHoldOverlaps s p a || (pendingClaims s).any (fencedBy s p a)

/-- A PUT is appended at the tail of the port's queue, numbered by the advanced taken count (R47 to
R49). -/
def enqueuePut (s : State) (p : Port) (addr : Addr) (length : Nat) (words : List HeldWord)
    (w : WindowId) (place : Place) : State :=
  let u := s.port p
  let seq := u.taken + 1
  s.setPort p
    { u with
      taken := seq
      queue := u.queue ++
        [{ seq := seq
           addr := addr
           length := length
           words := words
           place := place
           window := w
           inFlight := false }] }

/-- A PUT from step 7 on (R37 to R39, R41, R43, R45). -/
def putFresh (s : State) (p : Port) (tag : Byte) (addr : Addr) (len : Byte)
    (data : List LinkWord) : State :=
  match gate s p .write addr with
  | .refuse r => deny s p tag addr r
  | .pass w place =>
    if queueFull s p then againFull s p tag
    else if putHeldBack s p (wordSpan addr len.toNat) then reply s p (.again tag)
    else
      let words := heldWordsOf data
      let s' := noteHostParity (enqueuePut s p addr len.toNat words w place) p addr words
      reply s' p (.taken tag)

/-! ### The check order of each kind (R28), from step 3 on -/

/-- A FETCH that passed the header check. -/
def judgeFetch (p : Port) (tag : Byte) (addr : Addr) (len : Byte) (s₀ : State) : State :=
  let s := passHeader s₀ p
  if refusesAll s p then deny s p tag addr .portOff
  else if !wordFormOk addr len then deny s p tag addr .form
  else
    match matchKey s p .fetch addr with
    | .entry e => fetchMatched s p tag addr len e
    | .orphan => reply s p (.again tag)
    | .fresh => fetchFresh s p tag addr len

/-- A PUT that passed the header check. -/
def judgePut (p : Port) (tag : Byte) (addr : Addr) (len : Byte) (data : List LinkWord)
    (s₀ : State) : State :=
  let s := passHeader s₀ p
  if refusesAll s p then deny s p tag addr .portOff
  else if !wordFormOk addr len then deny s p tag addr .form
  else putFresh s p tag addr len data

/-- A PUT_SYNC that passed the header check. -/
def judgePutSync (p : Port) (tag : Byte) (addr : Addr) (len : Byte) (data : List LinkWord)
    (s₀ : State) : State :=
  let s := passHeader s₀ p
  if refusesAll s p then deny s p tag addr .portOff
  else if !wordFormOk addr len then deny s p tag addr .form
  else
    match matchKey s p .putSync addr with
    | .entry e => putSyncMatched s p tag addr len data e
    | .orphan => reply s p (.again tag)
    | .fresh => putSyncFresh s p tag addr len data

/-- A CLAIM that passed the header check. -/
def judgeClaim (p : Port) (tag : Byte) (addr : Addr) (len : Byte) (s₀ : State) : State :=
  let s := passHeader s₀ p
  if refusesAll s p then deny s p tag addr .portOff
  else if !claimFormOk addr len then deny s p tag addr .form
  else
    match matchKey s p .claim addr with
    | .entry e => claimMatched s p tag addr len e
    | .orphan => reply s p (.again tag)
    | .fresh => claimFresh s p tag addr len

/-- The DROP decision (R34, R35). -/
def decideDrop (s : State) (p : Port) (tag : Byte) (addr : Addr) : State :=
  let held :=
    match (s.port p).hold with
    | some h => h.base == addr
    | none => false
  if held then reply (settleDrain (releaseHold s p) p) p (.done tag false)
  else if (s.port p).lastHoldExpired then deny s p tag addr .late
  else deny s p tag addr .notHeld

/-- A DROP that passed the header check. -/
def judgeDrop (p : Port) (tag : Byte) (addr : Addr) (s₀ : State) : State :=
  let s := passHeader s₀ p
  if refusesAll s p then deny s p tag addr .portOff
  else if !dropFormOk addr then deny s p tag addr .form
  else decideDrop s p tag addr

/-- A STATUS that passed the header check (R31, R165): the flags and the record as they stand are
answered and cleared. -/
def judgeStatus (p : Port) (tag : Byte) (s₀ : State) : State :=
  let s := passHeader s₀ p
  reply (clearEvents s p) p (.state tag (s.port p).flags (s.port p).record)

/-- A frame of an unnamed kind that passed the header check (R33). -/
def judgeUnnamed (p : Port) (tag : Byte) (addr : Addr) (s₀ : State) : State :=
  let s := passHeader s₀ p
  if refusesAll s p then deny s p tag addr .portOff else deny s p tag addr .form

/-- A write frame whose data part is not the size its header calls for fails the header check
(R151). -/
def sizeOk (len : Byte) (data : List LinkWord) : Bool :=
  data.length == len.toNat

end Sys2Proof.Machine
end

