-- ==== Sys2Proof/Machine/Requests.lean ====
section
/-! DEFINITION. The meanings of the request frames and of the two link events (chapters 2 and 9). -/

namespace Sys2Proof.Machine

/-- FETCH (R28). -/
def execFetch (p : Port) (tag : Byte) (addr : Addr) (len : Byte) (s : State) :
    Host.Outcome State Fault Refusal :=
  .next (endFrame s p tag (judgeFetch p tag addr len))

/-- PUT (R41). -/
def execPut (p : Port) (tag : Byte) (addr : Addr) (len : Byte) (data : List LinkWord) (s : State) :
    Host.Outcome State Fault Refusal :=
  .next (endFrame s p tag fun s =>
    if sizeOk len data then judgePut p tag addr len data s else takeGarbled s p tag)

/-- PUT_SYNC (R28). -/
def execPutSync (p : Port) (tag : Byte) (addr : Addr) (len : Byte) (data : List LinkWord)
    (s : State) : Host.Outcome State Fault Refusal :=
  .next (endFrame s p tag fun s =>
    if sizeOk len data then judgePutSync p tag addr len data s else takeGarbled s p tag)

/-- CLAIM (R28). -/
def execClaim (p : Port) (tag : Byte) (addr : Addr) (len : Byte) (s : State) :
    Host.Outcome State Fault Refusal :=
  .next (endFrame s p tag (judgeClaim p tag addr len))

/-- DROP (R34): the length byte is not examined (R33). -/
def execDrop (p : Port) (tag : Byte) (addr : Addr) (_len : Byte) (s : State) :
    Host.Outcome State Fault Refusal :=
  .next (endFrame s p tag (judgeDrop p tag addr))

/-- STATUS (R31): address and length are not examined (R151). -/
def execStatus (p : Port) (tag : Byte) (_addr : Addr) (_len : Byte) (s : State) :
    Host.Outcome State Fault Refusal :=
  .next (endFrame s p tag (judgeStatus p tag))

/-- GARBLED_FRAME (R29). -/
def execGarbledFrame (p : Port) (tag : Byte) (s : State) : Host.Outcome State Fault Refusal :=
  .next (endFrame s p tag fun s => takeGarbled s p tag)

/-- UNNAMED_KIND_FRAME (R33). -/
def execUnnamedKindFrame (p : Port) (_kind : Byte) (tag : Byte) (addr : Addr) (_len : Byte)
    (s : State) : Host.Outcome State Fault Refusal :=
  .next (endFrame s p tag (judgeUnnamed p tag addr))

/-- FRAME_BEGIN (R153). -/
def execFrameBegin (p : Port) (s : State) : Host.Outcome State Fault Refusal :=
  .next (beginFrame s p)

/-- ANSWER_SENT (R153). -/
def execAnswerSent (p : Port) (s : State) : Host.Outcome State Fault Refusal :=
  .next (finishAnswer s p)

end Sys2Proof.Machine
end

