-- ==== Sys2Proof/Machine/Resets.lean ====
section
/-! DEFINITION. The meanings of the reset inputs: the port-reset lines (R160) and power-on reset (R186,
R187). -/

namespace Sys2Proof.Machine

/-! ### The port-reset line -/

/-- The link of a port at the assertion of its port-reset line (R160): a frame being received is
abandoned, an answer being sent is cut off. DESIGN CHOICE, unsafe: an answer that waits behind it is
dropped too, which R160 leaves open (notes/assumptions/28.md). -/
def cutLink (u : PortUnit) : PortUnit :=
  { u with
    resetLine := true
    receiving := u.receiving.map fun _ => .heldOff
    answers := [] }

/-- The assertion of port `p`'s port-reset line (R160): the port cleanup, with garble count, flags and
record cleared, and the link cut. Under power-on reset there is nothing to clean (R167). -/
def assertPortReset (s : State) (p : Port) : State :=
  let s' := s.setPort p (cutLink (s.port p))
  if s.powerOnAsserted then s' else settleDrain (portCleanup s' p) p

/-- PORT_RESET_ASSERT (R160). -/
def execPortResetAssert (p : Port) (s : State) : Host.Outcome State Fault Refusal :=
  .next (assertPortReset s p)

/-- PORT_RESET_RELEASE (R160): the port takes frames again; nothing else changes. -/
def execPortResetRelease (p : Port) (s : State) : Host.Outcome State Fault Refusal :=
  .next (s.setPort p { s.port p with resetLine := false })

/-! ### Power-on reset -/

/-- What of a link lies outside the part, and so outlasts a power-on reset: the level of the
port-reset line, and a frame that was being received, which will not be taken (R167, R186). -/
def linkOutside (u : PortUnit) : PortUnit :=
  { idlePort with
    resetLine := u.resetLine
    receiving := u.receiving.map fun _ => .heldOff }

/-- The part at its power-on values, with the given sampled inputs; the waiting commands and the links'
outside stay. -/
def atPowerOn (s : State) (addressSelect : Bool) (codeA codeB : BitVec 2) : State :=
  { State.atRelease addressSelect codeA codeB with
    pending := s.pending
    powerOns := s.powerOns
    ports := s.ports.map linkOutside }

/-- POWER_ON_RESET_ASSERT (R186): all operations are abandoned, the memory contents are undefined from
here on, and the part is held at its power-on values. What cannot be seen while it is held, the
presence codes and the slave address, stands at absent and low, and INIT_DONE is clear
(notes/assumptions/15.md). -/
def execPowerOnResetAssert (s : State) : Host.Outcome State Fault Refusal :=
  .next
    { atPowerOn s false 0 0 with
      powerOnAsserted := true
      powerOns := s.powerOns + 1
      deviceFlags := 0 }

/-- POWER_ON_RESET_RELEASE (R187): the pin and the presence codes are sampled, and everything takes its
default. -/
def execPowerOnResetRelease (addressSelect : Bool) (codeA codeB : BitVec 2) (s : State) :
    Host.Outcome State Fault Refusal :=
  .next (atPowerOn s addressSelect codeA codeB)

end Sys2Proof.Machine
end

