-- ==== Sys2Proof/Machine/Timers.lean ====
section
/-! DEFINITION. The meanings of the timer expiries (R19, R88, R118, R123, R129), and one step of the
0.1 µs timebase (00_scope.md section 0.5). An expiry command is the timer reaching zero, whatever time
the model had counted for it; a timer that is stopped does not expire, and nothing happens
(notes/assumptions/4.md and 5.md). -/

namespace Sys2Proof.Machine

/-- The DISCARD event of a port (R19): raised with the entry's address, and the discard count
advances. -/
def raiseDiscard (s : State) (e : Entry) : State :=
  countPort (raiseEvent s e.port .discard e.addr .none) e.port .discard 1

/-- The discard timer of a READY entry expires (R19): the entry is freed. A leftover goes silently, its
marks suppressed; any other raises DISCARD; a PUT_SYNC has grants evaluated; a granted CLAIM's hold is
released (R90). -/
def discardEntry (s : State) (e : Entry) : State :=
  match e.kind with
  | .fetch => if e.leftover then dropEntry s e else raiseDiscard (dropEntry s e) e
  | .putSync => evaluateGrants (raiseDiscard (freeEntry s e.slot) e)
  | .claim =>
    let s' := raiseDiscard (freeEntry s e.slot) e
    if e.result = some true then evaluateGrants (freeHold s' e.port) else s'

/-- DISCARD_TIMER_EXPIRY (R19). -/
def execDiscardTimerExpiry (n : Slot) (s : State) : Host.Outcome State Fault Refusal :=
  match entryAt s n with
  | some e =>
    if e.state = .ready ∧ e.discardTimer.isSome then .next (settleDrain (discardEntry s e) e.port)
    else .next s
  | none => .next s

/-- HOLD_TIMER_EXPIRY (R88). With the slot FREE nothing happens. -/
def execHoldTimerExpiry (p : Port) (s : State) : Host.Outcome State Fault Refusal :=
  .next (settleDrain (expireHold s p .timer) p)

/-- An overrun of rank `r` (R124): REFRESH_OVERRUN and the rank's retention doubt are set, and the
overrun counter advances. -/
def overrun (s : State) (r : RankId) : State :=
  let s' := s.setRank r { s.rank r with doubt := true }
  countDevice (setDeviceFlag s' refreshOverrunBit) .overrun 1

/-- The interval timer of a READY rank expires (R123): the balance rises, or there is an overrun at
+8, and the timer is loaded again. -/
def intervalExpiry (s : State) (r : RankId) : State :=
  let c := { s.rank r with intervalTimer := some (intervalTime s.settings.interval) }
  if c.balance < 8 then s.setRank r { c with balance := c.balance + 1 }
  else overrun (s.setRank r c) r

/-- INTERVAL_TIMER_EXPIRY (R123). -/
def execIntervalTimerExpiry (r : RankId) (s : State) : Host.Outcome State Fault Refusal :=
  if (s.rank r).state = .ready ∧ (s.rank r).intervalTimer.isSome then .next (intervalExpiry s r)
  else .next s

/-- A rank leaves PAUSE for WAKE, owing eight initialization refreshes (R118). -/
def wakeRank (c : RankControl) : RankControl :=
  { c with state := .wake, activity := .idle, balance := 0, pauseTimer := none, wakeCount := 8 }

/-- PAUSE_TIMER_EXPIRY (R118). -/
def execPauseTimerExpiry (r : RankId) (s : State) : Host.Outcome State Fault Refusal :=
  if (s.rank r).state = .pause ∧ (s.rank r).pauseTimer.isSome then
    .next (s.setRank r (wakeRank (s.rank r)))
  else .next s

/-- The row-open timer runs out: the close-due mark is set (R129). -/
def markCloseDue (c : RankControl) : RankControl :=
  { c with rowOpenTimer := none, closeDue := true }

/-- ROW_OPEN_TIMER_EXPIRY (R129). -/
def execRowOpenTimerExpiry (r : RankId) (s : State) : Host.Outcome State Fault Refusal :=
  if (s.rank r).rowOpenTimer.isSome then .next (s.setRank r (markCloseDue (s.rank r)))
  else .next s

/-! ### The timebase -/

/-- One unit of time taken from a timer: a stopped timer stays stopped, a timer at zero stays there. -/
def tickTimer (t : Option Nat) : Option Nat :=
  t.map (· - 1)

/-- One unit of time for a port's hold timer (R77). -/
def tickPort (u : PortUnit) : PortUnit :=
  { u with hold := u.hold.map fun h => { h with timer := h.timer - 1 } }

/-- One unit of time for a rank's timers (R114). -/
def tickRank (c : RankControl) : RankControl :=
  { c with
    rowOpenTimer := tickTimer c.rowOpenTimer
    intervalTimer := tickTimer c.intervalTimer
    pauseTimer := tickTimer c.pauseTimer }

/-- One step of the 0.1 µs timebase: every running timer's time left falls by one unit. It ends no
timer: the expiry is a command of its own (notes/assumptions/6.md). -/
def tick (s : State) : State :=
  { s with
    table := s.table.map fun e => { e with discardTimer := tickTimer e.discardTimer }
    ports := s.ports.map tickPort
    ranks := { r0 := tickRank s.ranks.r0, r1 := tickRank s.ranks.r1 } }

end Sys2Proof.Machine
end

