-- ==== Sys2Proof/Machine/Dispatch.lean ====
section
/-! DEFINITION. One command's effect on everything but the queue: one arm per row of
spec/opcode_table.json. -/

namespace Sys2Proof.Machine

def exec (i : Instr) (s : State) : Host.Outcome State Fault Refusal :=
  match i with
  | .fetch p tag addr len => Sys2Proof.Machine.execFetch p tag addr len s
  | .put p tag addr len data => Sys2Proof.Machine.execPut p tag addr len data s
  | .putSync p tag addr len data => Sys2Proof.Machine.execPutSync p tag addr len data s
  | .claim p tag addr len => Sys2Proof.Machine.execClaim p tag addr len s
  | .drop p tag addr len => Sys2Proof.Machine.execDrop p tag addr len s
  | .status p tag addr len => Sys2Proof.Machine.execStatus p tag addr len s
  | .garbledFrame p tag => Sys2Proof.Machine.execGarbledFrame p tag s
  | .unnamedKindFrame p kind tag addr len => Sys2Proof.Machine.execUnnamedKindFrame p kind tag addr len s
  | .decision => Sys2Proof.Machine.execDecision s
  | .accessReadComplete => Sys2Proof.Machine.execAccessReadComplete s
  | .accessWriteComplete => Sys2Proof.Machine.execAccessWriteComplete s
  | .refreshComplete => Sys2Proof.Machine.execRefreshComplete s
  | .initializationRefreshComplete => Sys2Proof.Machine.execInitializationRefreshComplete s
  | .closeComplete => Sys2Proof.Machine.execCloseComplete s
  | .discardTimerExpiry n => Sys2Proof.Machine.execDiscardTimerExpiry n s
  | .holdTimerExpiry p => Sys2Proof.Machine.execHoldTimerExpiry p s
  | .intervalTimerExpiry r => Sys2Proof.Machine.execIntervalTimerExpiry r s
  | .pauseTimerExpiry r => Sys2Proof.Machine.execPauseTimerExpiry r s
  | .rowOpenTimerExpiry r => Sys2Proof.Machine.execRowOpenTimerExpiry r s
  | .portResetAssert p => Sys2Proof.Machine.execPortResetAssert p s
  | .portResetRelease p => Sys2Proof.Machine.execPortResetRelease p s
  | .powerOnResetAssert => Sys2Proof.Machine.execPowerOnResetAssert s
  | .powerOnResetRelease sel codeA codeB => Sys2Proof.Machine.execPowerOnResetRelease sel codeA codeB s
  | .enable p => Sys2Proof.Machine.execEnable p s
  | .drain p => Sys2Proof.Machine.execDrain p s
  | .revoke p => Sys2Proof.Machine.execRevoke p s
  | .refreshPause => Sys2Proof.Machine.execRefreshPause s
  | .refreshResume => Sys2Proof.Machine.execRefreshResume s
  | .clearDoubt r => Sys2Proof.Machine.execClearDoubt r s
  | .clearCounters => Sys2Proof.Machine.execClearCounters s
  | .warmReset => Sys2Proof.Machine.execWarmReset s
  | .unknownCommand value => Sys2Proof.Machine.execUnknownCommand value s
  | .deviceFlagsWrite value => Sys2Proof.Machine.execDeviceFlagsWrite value s
  | .windowStagingWrite w field value => Sys2Proof.Machine.execWindowStagingWrite w field value s
  | .windowControlWrite w value => Sys2Proof.Machine.execWindowControlWrite w value s
  | .deviceFlagMaskWrite value => Sys2Proof.Machine.execDeviceFlagMaskWrite value s
  | .eventMaskWrite p value => Sys2Proof.Machine.execEventMaskWrite p value s
  | .registerWrite index value => Sys2Proof.Machine.execRegisterWrite index value s
  | .counterLowByteRead c => Sys2Proof.Machine.execCounterLowByteRead c s
  | .frameBegin p => Sys2Proof.Machine.execFrameBegin p s
  | .answerSent p => Sys2Proof.Machine.execAnswerSent p s
  | .indexPointerSet value => Sys2Proof.Machine.execIndexPointerSet value s

end Sys2Proof.Machine
end

