-- ==== Sys2Proof/Machine/Answers.lean ====
section
/-! DEFINITION. The bytes of an answer frame (R151, R152). -/

namespace Sys2Proof.Machine

/-- The reason codes of R151. -/
def Reason.code (r : Reason) : Byte :=
  match r with
  | .garbled => 1
  | .portOff => 2
  | .form => 3
  | .late => 4
  | .notHeld => 5
  | .mismatch => 6
  | .quiesced => 7
  | .window => 8
  | .noMemory => 9
  | .double => 10

/-- The fault record kinds of R151; 0 is an empty record. -/
def kindCode (k : Option EventKind) : Byte :=
  match k with
  | none => 0
  | some .discard => 1
  | some .holdExpired => 2
  | some .hostParity => 3
  | some .poison => 4
  | some .denied => 5

/-- The fault record causes of R151. -/
def Cause.code (c : Cause) : Byte :=
  match c with
  | .none => 0
  | .deny r => r.code
  | .timer => 11
  | .revoked => 12

/-- A Boolean as a byte. -/
def flagByte (b : Bool) : Byte :=
  if b then 1 else 0

/-- The poison mask of delivered words, word 0 in the lowest bit (R144). -/
def poisonMask : List ReadWord → Nat
  | [] => 0
  | w :: ws => (if w.poison then 1 else 0) + 2 * poisonMask ws

/-- The 9 bytes of a delivered word: data bytes 0 to 7, then the stored parity bits (R151). -/
def bytesOfReadWord (w : ReadWord) : List Byte :=
  w.bytes.toList.map (·.data) ++ [byteOfBits fun i => (w.bytes.get i).parity]

/-- The answer code and the detail byte (R151). -/
def Answer.codeAndDetail (a : Answer) : Byte × Byte :=
  match a with
  | .again _ => (1, 0)
  | .taken _ => (2, 0)
  | .data _ words => (3, BitVec.ofNat 8 words.length)
  | .done _ marked => (4, flagByte marked)
  | .state _ _ _ => (5, 0)
  | .deny _ r => (6, r.code)

/-- The echoed tag. -/
def Answer.tag (a : Answer) : Byte :=
  match a with
  | .again t | .taken t | .data t _ | .done t _ | .state t _ _ | .deny t _ => t

/-- The poison mask field: zero in every answer other than DATA (R27). -/
def Answer.mask (a : Answer) : BitVec 16 :=
  match a with
  | .data _ words => BitVec.ofNat 16 (poisonMask words)
  | .again _ | .taken _ | .done _ _ | .state _ _ _ | .deny _ _ => 0

/-- What follows the six bytes of every answer (R151). -/
def Answer.body (a : Answer) : List Byte :=
  match a with
  | .data _ words => words.flatMap bytesOfReadWord
  | .state _ flags record =>
    [flags.setWidth 8, kindCode record.kind, record.cause.code, flagByte record.more,
      addrByte record.addr 0, addrByte record.addr 1, addrByte record.addr 2,
      addrByte record.addr 3]
  | .again _ | .taken _ | .done _ _ | .deny _ _ => []

/-- An answer frame: code, detail, tag, poison mask, the answer check, which makes the XOR of bytes 0
to 5 zero, and what the answer carries (R151, R152). -/
def Answer.bytes (a : Answer) : List Byte :=
  let head :=
    [a.codeAndDetail.1, a.codeAndDetail.2, a.tag, a.mask.extractLsb' 0 8, a.mask.extractLsb' 8 8]
  head ++ [xorBytes head] ++ a.body

end Sys2Proof.Machine
end

