-- ==== Sys2Proof/Safety.lean ====
section
/-! DEFINITION. What counts as a safe state and a safe run: the laws that the manual states of the
device, as predicates on one state, and the conditions under which a link takes a frame. -/

namespace Sys2Proof.Machine

/-- A run of `n` steps is safe: no step of it faults or is refused. -/
def safeRun : Nat → State → Prop
  | 0, _ => True
  | n + 1, s => ∃ t, step s = .next t ∧ safeRun n t

/-- A frame of port `p` that ends now is judged by its header: no reset input is asserted, no warm
reset is in progress, and the frame did not begin under a reset input or over an answer (R30, R153,
R160, R186). -/
def linkJudges (s : State) (p : Port) : Prop :=
  s.powerOnAsserted = false ∧ (s.port p).resetLine = false ∧ s.warm = .idle ∧
    ((s.port p).receiving = none ∨ (s.port p).receiving = some .clean)

/-- The port and the tag of a command that is a request frame (R151). -/
def frameOf (i : Instr) : Option (Port × Byte) :=
  match i with
  | .fetch p tag _ _ | .put p tag _ _ _ | .putSync p tag _ _ _ | .claim p tag _ _
  | .drop p tag _ _ | .status p tag _ _ | .garbledFrame p tag
  | .unnamedKindFrame p _ tag _ _ => some (p, tag)
  | .decision | .accessReadComplete | .accessWriteComplete | .refreshComplete
  | .initializationRefreshComplete | .closeComplete | .discardTimerExpiry _ | .holdTimerExpiry _
  | .intervalTimerExpiry _ | .pauseTimerExpiry _ | .rowOpenTimerExpiry _ | .portResetAssert _
  | .portResetRelease _ | .powerOnResetAssert | .powerOnResetRelease _ _ _ | .enable _ | .drain _
  | .revoke _ | .refreshPause | .refreshResume | .clearDoubt _ | .clearCounters | .warmReset
  | .unknownCommand _ | .deviceFlagsWrite _ | .windowStagingWrite _ _ _ | .windowControlWrite _ _
  | .deviceFlagMaskWrite _ | .eventMaskWrite _ _ | .registerWrite _ _ | .counterLowByteRead _
  | .frameBegin _ | .answerSent _ | .indexPointerSet _ => none

/-- The port, the tag and the address of a request that can be refused after the header check: every
kind but STATUS, and a kind code that names none (R28). -/
def refusable (i : Instr) : Option (Port × Byte × Addr) :=
  match i with
  | .fetch p tag addr _ | .put p tag addr _ _ | .putSync p tag addr _ _ | .claim p tag addr _
  | .drop p tag addr _ | .unnamedKindFrame p _ tag addr _ => some (p, tag, addr)
  | _ => none

/-- The request fails the form step (R33). -/
def malformed (i : Instr) : Prop :=
  match i with
  | .fetch _ _ addr len | .put _ _ addr len _ | .putSync _ _ addr len _ =>
    addr.toNat % 8 ≠ 0 ∨ len.toNat = 0 ∨ 16 < len.toNat ∨ 16 < addr.toNat % 128 / 8 + len.toNat
  | .claim _ _ addr len =>
    addr.toNat % 64 ≠ 0 ∨ len.toNat = 0 ∨ 64 < len.toNat ∨ 64 < addr.toNat % 4096 / 64 + len.toNat
  | .drop _ _ addr _ => addr.toNat % 64 ≠ 0
  | .unnamedKindFrame _ _ _ _ _ => True
  | _ => False

/-- What the window map is asked for by a request that creates work (R64). -/
def purposeOf (i : Instr) : Option Purpose :=
  match i with
  | .fetch _ _ _ _ => some .fetch
  | .put _ _ _ _ _ | .putSync _ _ _ _ _ => some .write
  | .claim _ _ _ _ => some .claim
  | _ => none

/-- The kind of entry that a request is compared with at the matching step (R8). -/
def matchedKind (i : Instr) : Option EntryKind :=
  match i with
  | .fetch _ _ _ _ => some .fetch
  | .putSync _ _ _ _ _ => some .putSync
  | .claim _ _ _ _ => some .claim
  | _ => none

/-- The entry has the key of port, kind and address (R7). -/
def Entry.hasKey (e : Entry) (p : Port) (k : EntryKind) (addr : Addr) : Prop :=
  e.port = p ∧ e.kind = k ∧ e.addr = addr

/-- The presented request agrees with the entry of its key (R8): for a leftover nothing further, for a
FETCH the length, for a CLAIM the length in units, for a PUT_SYNC the length, the masks and the data of
every byte whose mask is set. -/
def agreesWith (i : Instr) (e : Entry) : Prop :=
  match i with
  | .fetch _ _ _ len => e.leftover = true ∨ e.length = len.toNat
  | .putSync _ _ _ len data =>
    e.length = len.toNat ∧ e.writeData.length = data.length ∧
      ∀ (j : Nat) (h : HeldWord) (w : LinkWord),
        e.writeData[j]? = some h → data[j]? = some w → ∀ x : Fin 8,
          (h.get x).mask = (w.get x).mask ∧ ((w.get x).mask = true → (h.get x).data = (w.get x).data)
  | .claim _ _ _ len => e.length = len.toNat
  | _ => False

/-- The byte address lies in the range. -/
def Span.mem (a : Span) (x : Nat) : Prop :=
  a.base ≤ x ∧ x < a.stop

/-- The two ranges have a byte in common (00_scope.md section 0.5). -/
def Span.meets (a b : Span) : Prop :=
  ∃ x, a.mem x ∧ b.mem x

/-- A QUEUED CLAIM entry of another port meets the range at a byte outside port `p`'s own active hold,
when it has one (R80, R188, R189). -/
def fences (s : State) (p : Port) (a : Span) (c : Entry) : Prop :=
  c.kind = .claim ∧ c.state = .queued ∧ c.port ≠ p ∧
    ∃ x, a.mem x ∧ c.claimSpan.mem x ∧ ∀ h, (s.port p).hold = some h → ¬ h.span.mem x

/-- How many ones a data byte and its parity bit hold together. The byte passes its parity check when
the number is odd (R137). -/
def onesOf (data : Byte) (parity : Bool) : Nat :=
  (List.range 8).countP (fun i => data.getLsbD i) + if parity then 1 else 0

/-- Write data as they are held (R45, R137, R138): every byte as it arrived, with its parity and mask
bits, and marked when it is to be written and fails its parity check. -/
def heldAsArrived (data : List LinkWord) : List HeldWord :=
  data.map fun x => x.map fun b =>
    { data := b.data, parity := b.parity, mask := b.mask
      mark := b.mask && decide (onesOf b.data b.parity % 2 = 0) }

/-- The two conditions of the reserve and limit for a new request of port `p` (R14, R15): the port's
held count is below its limit in effect, and after the entry is taken the FREE entries cover the
shortfall of the other three ports. -/
def reserveAllows (s : State) (p : Port) : Prop :=
  let held (q : Port) : Nat := (s.table.filter fun e => decide (e.port = q)).length
  held p < max (s.port p).limit.toNat (held p) ∧
    s.table.length + 1 + ((allPorts.filter fun q => decide (q ≠ p)).map fun q => 2 - held q).sum ≤ 16

/-- The active hold of a port other than `p` meets the range (R85). -/
def foreignHoldMeets (s : State) (p : Port) (a : Span) : Prop :=
  ∃ q h, q ≠ p ∧ (s.port q).hold = some h ∧ h.span.meets a

/-! ### A port unit after an answer, an event or a count

Functions of the port unit alone, in which statements say what a command leaves of it. -/

/-- The unit after an answer (R153): the frame has ended, the answer is the last to be sent. -/
def PortUnit.answered (u : PortUnit) (a : Answer) : PortUnit :=
  { u with
    receiving := none
    freshLink := false
    answers := (if u.receiving = none then [] else u.answers) ++ [a] }

/-- The unit after a frame that passed the header check (R154). -/
def PortUnit.headerPassed (u : PortUnit) : PortUnit :=
  { u with garbleCount := 0 }

/-- The unit after an event (R163, R164): the flag is pending and the record is the event's, with more
set when a flag was pending before. -/
def PortUnit.raised (u : PortUnit) (k : EventKind) (addr : Addr) (cause : Cause) : PortUnit :=
  { u with
    flags := u.flags ||| k.bit
    record := { kind := some k, addr := addr, cause := cause, more := decide (u.flags ≠ 0) } }

/-- The unit after one of its counters advanced by `n`, saturating at 65535 (R179). -/
def PortUnit.counted (u : PortUnit) (k : PortCounter) (n : Nat) : PortUnit :=
  { u with
    counters := u.counters.set k (BitVec.ofNat 16 (min 65535 ((u.counters.get k).toNat + n))) }

/-- The unit after a request refused with a reason other than GARBLED (R44). -/
def PortUnit.refused (u : PortUnit) (tag : Byte) (addr : Addr) (r : Reason) : PortUnit :=
  (u.headerPassed.raised .denied addr (.deny r)).answered (.deny tag r)

/-- The unit after delivering words, the first of them at `addr` (R144): with a marked word among them
POISON is raised at the lowest-addressed one, and the delivered-poison counter advances by their
number. -/
def PortUnit.delivered (u : PortUnit) (addr : Addr) (words : List ReadWord) : PortUnit :=
  if words.all (fun w => !w.poison) then u
  else
    (u.raised .poison (addWords addr (words.findIdx (·.poison))) .none).counted .deliveredPoison
      (words.countP (·.poison))

/-- The unit after write data have been taken (R139): with a marked byte among them HOST_PARITY is
raised with the request's address and the host-parity counter advances by one. -/
def PortUnit.tookData (u : PortUnit) (addr : Addr) (words : List HeldWord) : PortUnit :=
  if anyMarked words then (u.raised .hostParity addr .none).counted .hostParity 1 else u

/-- The state of port `p` as its drain leaves it (R158): QUIET for a DRAINING port that, in state `t`,
holds no entry, no queued PUT and no hold. -/
def drainTested (t : State) (p : Port) (m : PortMode) : PortMode :=
  if m = .draining ∧ (∀ e ∈ t.table, e.port ≠ p) ∧ (t.port p).queue = [] ∧ (t.port p).hold = none
  then .quiet else m

/-- The device's counters after the poison marks of dropped words have been counted as suppressed
(R146). -/
def DeviceCounters.suppressed (c : DeviceCounters) (words : List ReadWord) : DeviceCounters :=
  { c with
    suppressedPoison :=
      BitVec.ofNat 16 (min 65535 (c.suppressedPoison.toNat + words.countP (·.poison))) }

/-- The effects of the cleanup of port `p` before its evaluation of grants (R162): QUEUED and READY
entries of the port freed with the marks of their undelivered words counted, ISSUED ones orphaned, the
hold released, last hold expired and the garble count cleared, flags and record cleared. -/
def cleanedUp (s : State) (p : Port) : State :=
  { s with
    table := (s.table.filter fun e => decide (e.port ≠ p ∨ e.state = .issued)).map fun e =>
      if e.port = p then { e with orphan := true } else e
    counters := s.counters.suppressed
      ((s.table.filter fun e => decide (e.port = p ∧ e.state ≠ .issued)).flatMap (·.readData))
    ports := s.ports.set p
      { s.port p with
        hold := none
        lastHoldExpired := false
        garbleCount := 0
        flags := 0
        record := emptyRecord } }

/-- A rank owes a refresh that cannot wait (R100): READY, at or above the urgency threshold, refresh not
paused; or in WAKE with initialization refreshes owed. -/
def refreshForced (s : State) (r : RankId) : Prop :=
  ((s.rank r).state = .ready ∧ (s.settings.threshold.toNat : Int) ≤ (s.rank r).balance ∧
      s.sched.refreshPaused = false) ∨
    ((s.rank r).state = .wake ∧ 0 < (s.rank r).wakeCount)

/-- A rank's open row is due for closing (R101, R111): READY and OPEN, with the close-due mark set or a
warm reset past its clearing point. -/
def closeDueNow (s : State) (r : RankId) : Prop :=
  (s.rank r).state = .ready ∧ (s.rank r).activity = .rowOpen ∧
    ((s.rank r).closeDue = true ∨ s.warm = .closing)

/-- A rank can be refreshed ahead of need (R103, R111): READY and IDLE, above −8, pull-in enabled,
refresh not paused, no warm reset in progress. -/
def pullInPossible (s : State) (r : RankId) : Prop :=
  (s.rank r).state = .ready ∧ (s.rank r).activity = .idle ∧ -8 < (s.rank r).balance ∧
    s.settings.pullIn = true ∧ s.sched.refreshPaused = false ∧ s.warm = .idle

/-- A table entry that may be issued now (R22, R80, R85, R189): a QUEUED FETCH or PUT_SYNC whose rank is
READY and whose fence is met, which no active hold of another port meets, and which, for a PUT_SYNC, no
older pending claim of another port fences. -/
def mayIssue (s : State) (e : Entry) : Prop :=
  e.state = .queued ∧ e.kind ≠ .claim ∧
    (∃ place, e.place = some place ∧ (s.rank place.rank).state = .ready) ∧
    e.fenceMet = true ∧ ¬ foreignHoldMeets s e.port e.accessSpan ∧
    (e.kind = .putSync →
      ∀ c ∈ s.table.takeWhile (fun x => x.slot != e.slot), ¬ fences s e.port e.accessSpan c)

/-- Port `p`'s access candidate is a row hit on an OPEN rank, and its port has not used up its streak
(R102, R105). -/
def eligibleHitOf (s : State) (p : Port) : Prop :=
  ∃ c, accessCandidate s p = some c ∧ (s.rank c.place.rank).activity = .rowOpen ∧
    (s.rank c.place.rank).openRow = some c.place.row ∧
    ¬ (s.sched.streakPort = some p ∧ s.settings.streakLimit.toNat ≤ s.sched.streakCount)

/-- Port `w` is the first with the property when the ports are scanned from the round-robin pointer
upward, wrapping from 3 to 0 (R105). -/
def firstInScan (s : State) (P : Port → Prop) (w : Port) : Prop :=
  P w ∧ ∀ q, P q → (w - s.sched.pointer).val ≤ (q - s.sched.pointer).val

/-- Port `w` wins among the access candidates (R105). -/
def winsAccess (s : State) (w : Port) : Prop :=
  let has (q : Port) : Prop := accessCandidate s q ≠ none
  let streakHit (q : Port) : Prop := s.sched.streakPort = some q ∧ eligibleHitOf s q
  if s.settings.pagePolicy = .leaveOpen ∧ 0 < s.settings.streakLimit.toNat then
    streakHit w ∨
      ((∀ q, ¬ streakHit q) ∧ firstInScan s (eligibleHitOf s) w) ∨
      ((∀ q, ¬ eligibleHitOf s q) ∧ firstInScan s has w)
  else firstInScan s has w

/-- The management port takes command bytes and they take effect (R174, R186). -/
def commandsTaken (s : State) : Prop :=
  s.powerOnAsserted = false ∧ s.warm = .idle

/-- The rank an operation acts on (R96). -/
def BusOp.rank (x : BusOp) : RankId :=
  match x with
  | .access a => a.rank
  | .refresh r _ => r
  | .close r => r

/-! ### Memory (R148) -/

/-- The memory stands in its canonical form. -/
def memoryLaw (s : State) : Prop :=
  s.memory.wf = true

/-! ### The request table (R1, R7, R15) -/

/-- The numbers of the listed entries are distinct (R1). -/
def slotsDistinct (s : State) : Prop :=
  (s.table.map (·.slot)).Nodup

/-- The law of the reserve (R15): the FREE entries cover the shortfall of all four ports; a port holds
at most 10 entries, and its written limit is at most 10 (R14). -/
def reserveLaw (s : State) : Prop :=
  s.table.length + (allPorts.map (shortfall s)).sum ≤ 16 ∧
    ∀ p : Port, heldCount s p ≤ 10 ∧ (s.port p).limit.toNat ≤ 10

/-- The law of the keys (R7): no two non-orphaned entries share port, kind and address. -/
def keyLaw (s : State) : Prop :=
  slotsDistinct s ∧
    ∀ e ∈ s.table, ∀ f ∈ s.table, e.orphan = false → f.orphan = false → e.port = f.port →
      e.kind = f.kind → e.addr = f.addr → e.slot = f.slot

/-- A leftover is a READY FETCH (R11): it is formed from one, and leaves READY only to be freed (R59). -/
def leftoverLaw (s : State) : Prop :=
  ∀ e ∈ s.table, e.leftover = true → e.kind = .fetch ∧ e.state = .ready

/-- The law of the discard timer (R18): the READY entries, and they alone, run one. -/
def timerLaw (s : State) : Prop :=
  slotsDistinct s ∧ ∀ e ∈ s.table, (e.state = .ready ↔ e.discardTimer ≠ none)

/-! ### Put queues (R48, R50) -/

/-- The law of the put queues: at most 8 PUTs, as many as the taken count minus the written count
modulo 65536, numbered in the order taken; an ACCESS in progress for a queue head has one. -/
def queueLaw (s : State) : Prop :=
  (∀ p : Port,
    (s.port p).queue.length ≤ 8 ∧
      (s.port p).queue.length = ((s.port p).taken - (s.port p).written).toNat ∧
      (s.port p).queue.map (·.seq) =
        (List.range (s.port p).queue.length).map
          (fun i => (s.port p).written + 1 + BitVec.ofNat 16 i)) ∧
    ∀ a, s.bus = some (.access a) → a.work = .putHead → (s.port a.port).queue ≠ []

/-- The law of the fence (R54): an entry whose fence is awaited is QUEUED, and the PUT that the fence
names, the last its port was answered TAKEN for before the entry was created, is still queued. -/
def fenceLaw (s : State) : Prop :=
  slotsDistinct s ∧ queueLaw s ∧
    ∀ e ∈ s.table, e.kind ≠ .claim → e.fenceMet = false →
      e.state = .queued ∧ ∃ q ∈ (s.port e.port).queue, q.seq = e.fence

/-! ### Holds (R84, R85) -/

/-- No two active holds overlap (R84). -/
def holdsDisjoint (s : State) : Prop :=
  ∀ p q h k, p ≠ q → (s.port p).hold = some h → (s.port q).hold = some k →
    h.span.overlaps k.span = false

/-- A CLAIM entry is never ISSUED: it goes from QUEUED to READY at its grant (R6). -/
def claimStateLaw (s : State) : Prop :=
  ∀ e ∈ s.table, e.kind = .claim → e.state ≠ .issued

/-- The law of the claims (R84): a port has at most one CLAIM entry, none that is QUEUED beside an
active hold; a READY one with granted = yes stands beside the hold granted from it, and one with
granted = no beside no hold. -/
def claimLaw (s : State) : Prop :=
  slotsDistinct s ∧
    ∀ p : Port,
      s.table.countP (fun e => e.port == p && e.kind == .claim) ≤ 1 ∧
        ∀ e ∈ s.table, e.port = p → e.kind = .claim →
          (e.state = .queued → (s.port p).hold = none) ∧
            (e.state = .ready → e.result = some true →
              ∃ h, (s.port p).hold = some h ∧
                h.base = e.addr ∧ h.units = e.length ∧ h.window = e.window) ∧
            (e.state = .ready → e.result ≠ some true → (s.port p).hold = none)

/-- The law of exclusion (R85): while port `p`'s hold is active, no other port's put queue holds a PUT
over its span, and no ACCESS in progress on behalf of another port touches it. -/
def exclusionLaw (s : State) : Prop :=
  ∀ p q h, p ≠ q → (s.port p).hold = some h →
    (∀ w ∈ (s.port q).queue, w.span.overlaps h.span = false) ∧
      ∀ a, s.bus = some (.access a) → a.port = q → a.span.overlaps h.span = false

/-! ### Port states (R159) -/

/-- The law of the port states (R159): an OFF or QUIET port holds no entry, a FAULT port none but
orphans, and none of the three holds a CLAIM entry or a hold. Orphans are ISSUED and a CLAIM never
is (R6, R13). -/
def portStateLaw (s : State) : Prop :=
  slotsDistinct s ∧
    (∀ e ∈ s.table, e.orphan = true → e.state = .issued) ∧ claimStateLaw s ∧
    ∀ p : Port,
      ((s.port p).mode = .off ∨ (s.port p).mode = .quiet →
        (∀ e ∈ s.table, e.port ≠ p) ∧ (s.port p).hold = none) ∧
      ((s.port p).mode = .fault →
        (∀ e ∈ s.table, e.port = p → e.orphan = true) ∧ (s.port p).hold = none)

/-! ### Ranks and the bus (R116, R126, R131) -/

/-- The law of the refresh balance (R126): −8 to +8 in a READY rank, 0 in any other; a refresh in
progress of a READY rank finds it at −7 or above. -/
def balanceLaw (s : State) : Prop :=
  1 ≤ s.settings.threshold.toNat ∧
    (∀ r : RankId,
      ((s.rank r).state = .ready → -8 ≤ (s.rank r).balance ∧ (s.rank r).balance ≤ 8) ∧
        ((s.rank r).state ≠ .ready → (s.rank r).balance = 0)) ∧
    ∀ r k, s.bus = some (.refresh r k) → k ≠ .wake →
      (s.rank r).state = .ready ∧ -7 ≤ (s.rank r).balance

/-- The law of the open rows (R116, R131), for one rank: it is BUSY exactly while the operation in
progress is on it, only a READY rank has an open row, it has none while IDLE or while a REFRESH or
CLOSE is in progress on it, and a close-due mark or a running row-open timer has a row to close. -/
def rowLawAt (s : State) (r : RankId) : Prop :=
  let c := s.rank r
  (c.activity = .busy ↔ ∃ x, s.bus = some x ∧ x.rank = r) ∧
    (c.activity = .busy → c.state = .ready ∨ c.state = .wake) ∧
    (c.activity = .rowOpen → c.openRow ≠ none) ∧
    (c.activity = .idle → c.openRow = none) ∧
    (c.openRow ≠ none → c.state = .ready) ∧
    (c.closeDue = true → c.openRow ≠ none) ∧
    (c.rowOpenTimer ≠ none → c.openRow ≠ none) ∧
    (∀ k, s.bus = some (.refresh r k) → c.openRow = none) ∧
    (s.bus = some (.close r) → c.openRow = none) ∧
    ∀ a, s.bus = some (.access a) → a.rank = r → c.openRow = some a.row

/-- The law of the open rows for both ranks (R131). -/
def rowLaw (s : State) : Prop :=
  ∀ r : RankId, rowLawAt s r

/-- A warm reset that waits, waits for an operation in progress (R181). -/
def warmLaw (s : State) : Prop :=
  s.warm = .waiting → s.bus ≠ none

/-- The ranges of the settings and counts (R14, R18, R78, R100, R106, R108, R122, R154). -/
def rangeLaw (s : State) : Prop :=
  1 ≤ s.settings.discard.toNat ∧
    (1 ≤ s.settings.holdTime.toNat ∧ s.settings.holdTime.toNat ≤ 200) ∧
    (10 ≤ s.settings.interval.toNat ∧ s.settings.interval.toNat ≤ 159) ∧
    (1 ≤ s.settings.threshold.toNat ∧ s.settings.threshold.toNat ≤ 8) ∧
    s.settings.streakLimit.toNat ≤ 15 ∧
    s.sched.streakCount ≤ 15 ∧
    ∀ p : Port,
      (2 ≤ (s.port p).limit.toNat ∧ (s.port p).limit.toNat ≤ 10) ∧ (s.port p).garbleCount ≤ 3

/-- The law of the staged flags (R67): a clear flag shows that the staging copy equals the active
record in every field. -/
def stagedLaw (s : State) : Prop :=
  ∀ w : WindowId, (s.window w).staged = false → (s.window w).staging = (s.window w).active

/-! ### Accesses and coherence (R33, R62, R75) -/

/-- `n` words from an address lie within one block of the present memory (R33, R73). -/
def wordsFit (s : State) (addr : Addr) (n : Nat) : Prop :=
  addr.toNat % 8 = 0 ∧ addr.toNat % 128 / 8 + n ≤ 16 ∧
    addr.toNat / 128 * 128 + 128 ≤ totalCapacity s

/-- Every FETCH and PUT_SYNC entry, every queued PUT and the ACCESS in progress lie within one block
of the present memory, and the ACCESS in progress for an entry has that entry's address (R33, R75,
R96). -/
def fitLaw (s : State) : Prop :=
  slotsDistinct s ∧
    (∀ e ∈ s.table, e.kind ≠ .claim →
      wordsFit s e.addr e.length ∧ wordsFit s e.addr e.readData.length) ∧
    (∀ p : Port, ∀ q ∈ (s.port p).queue, wordsFit s q.addr q.length) ∧
    ∀ a, s.bus = some (.access a) →
      wordsFit s a.base a.words ∧
        ∀ e ∈ s.table, a.work = .entry e.slot → e.state = .issued →
          e.addr = a.base ∧ e.kind ≠ .claim

/-- The law of coherence (R62): the words that a READY FETCH or a leftover holds are those that the
memory holds now. -/
def coherenceLaw (s : State) : Prop :=
  fitLaw s ∧ leftoverLaw s ∧
    (∀ e ∈ s.table, e.kind = .fetch → e.state = .ready →
      e.readData.length ≤ e.heldWords ∧
        e.readData = s.memory.readWords s.powerOns e.addr.toNat e.readData.length) ∧
    ∀ a, s.bus = some (.access a) → ∀ e ∈ s.table, a.work = .entry e.slot → e.state = .issued →
      a.words = e.accessWords ∧ (a.write = true → e.kind = .putSync) ∧ e.leftover = false

end Sys2Proof.Machine
end

