-- ==== Sys2Proof/Certificates/Slice0/Obligations.lean ====
section
/-! DEFINITION. The statements about the W440 that the provers are asked to prove. -/

open Sys2Proof Sys2Proof.Machine

/-! ### One step -/

/-- A step with a command at the front of the queue is that command's effect on the state with the
queue's rest; no table word spells a command, so placing one changes nothing (the queue and the words
are the model's choice, notes/assumptions/4.md and 17.md). -/
def Obligations.StepRunsFrontCommand : Prop :=
  ∀ (c : Instr) (s : State) (rest : List Instr) (nbits w : Nat),
    step { s with pending := c :: rest } = exec c { s with pending := rest } ∧
      s.withFetchWord nbits w = s

/-- With no command waiting, one step of the 0.1 µs timebase: every running timer's time left falls by
one unit, a stopped timer stays stopped, none expires, and nothing else changes (the model's choice,
notes/assumptions/6.md). -/
def Obligations.IdleStepCountsTimers : Prop :=
  ∀ s : State, s.pending = [] →
    ∃ t, step s = .next t ∧
      t.table = s.table.map (fun e => { e with discardTimer := e.discardTimer.map (· - 1) }) ∧
      (∀ p, t.port p =
        { s.port p with
          hold := (s.port p).hold.map fun h => { h with timer := h.timer - 1 } }) ∧
      (∀ r, t.rank r =
        { s.rank r with
          rowOpenTimer := (s.rank r).rowOpenTimer.map (· - 1)
          intervalTimer := (s.rank r).intervalTimer.map (· - 1)
          pauseTimer := (s.rank r).pauseTimer.map (· - 1) }) ∧
      t = { s with table := t.table, ports := t.ports, ranks := t.ranks }

/-- No command changes the queue of waiting commands. Only the completion of a write changes what any
address of the memory reads as; power-on reset leaves it undefined, and every other command leaves every
byte and parity bit (R132, R137, R140, R186). That stored bytes last and that the queue outlasts a reset
are the model's choice (notes/assumptions/3.md and 24.md). -/
def Obligations.CommandsLeaveQueueAndMemory : Prop :=
  ∀ (c : Instr) (s t : State), exec c s = .next t →
    t.pending = s.pending ∧
      (c ≠ .accessWriteComplete → c ≠ .powerOnResetAssert →
        (∀ sel a b, c ≠ .powerOnResetRelease sel a b) →
          ∀ a, t.memory.read t.powerOns a = s.memory.read s.powerOns a)

/-! ### Resets -/

/-- The state after reset, on the board the model chooses (notes/assumptions/1.md), meets every law of
Safety.lean. -/
def Obligations.ResetMeetsEveryLaw : Prop :=
  memoryLaw State.reset ∧ reserveLaw State.reset ∧ keyLaw State.reset ∧ timerLaw State.reset ∧
    queueLaw State.reset ∧ fenceLaw State.reset ∧ holdsDisjoint State.reset ∧
    claimLaw State.reset ∧ exclusionLaw State.reset ∧ portStateLaw State.reset ∧
    balanceLaw State.reset ∧ rowLaw State.reset ∧ warmLaw State.reset ∧ rangeLaw State.reset ∧
    stagedLaw State.reset ∧ fitLaw State.reset ∧ coherenceLaw State.reset

/-- POWER_ON_RESET_ASSERT (R186): the operation and the warm reset in progress, every entry, queued PUT
and hold are abandoned, a frame being received will not be taken, no timer runs, no line is asserted,
the management port acknowledges no address, the memory is undefined (no byte is listed, and the free
values are those of a new power-on), and a decision, a register write and a frame have no effect.
What stands while the input is asserted is the model's choice (notes/assumptions/15.md). -/
def Obligations.PowerOnAssertAbandonsEverything : Prop :=
  ∀ s : State, ∃ t, exec .powerOnResetAssert s = .next t ∧
    t.powerOnAsserted = true ∧ t.warm = .idle ∧ t.table = [] ∧ t.bus = none ∧
    (∀ p, t.port p =
      { idlePort with
        resetLine := (s.port p).resetLine
        receiving := (s.port p).receiving.map fun _ => .heldOff }) ∧
    (∀ r, (t.rank r).activity = .idle ∧ (t.rank r).openRow = none ∧
      (t.rank r).rowOpenTimer = none ∧ (t.rank r).intervalTimer = none ∧
      (t.rank r).pauseTimer = none) ∧
    (∀ a, t.memory.find a = none) ∧ t.powerOns = s.powerOns + 1 ∧ t.pending = s.pending ∧
    alert t = false ∧ (∀ p, attention t p = false) ∧ (∀ a, acknowledges t a = false) ∧
    exec .decision t = .next t ∧
    (∀ i v, exec (.registerWrite i v) t = .next t) ∧
    ∀ c p tag, frameOf c = some (p, tag) →
      exec c t = .next (t.setPort p { t.port p with receiving := none })

/-- POWER_ON_RESET_RELEASE (R187): the pin and the presence codes are sampled, each present rank enters
PAUSE with 200 µs to go, every setting, counter, snapshot, flag, port, window and the scheduler takes
its default, the tables, queues and holds are empty, the bus is FREE, and the management port
acknowledges its own address. A port-reset line keeps its level. The same follows a release
without an assertion before it (the model's choice, notes/assumptions/23.md). -/
def Obligations.PowerOnReleaseSetsDefaults : Prop :=
  ∀ (s : State) (sel : Bool) (codeA codeB : BitVec 2), ∃ t,
    exec (.powerOnResetRelease sel codeA codeB) s = .next t ∧
    t.slaveAddress = (if sel then 0x3B else 0x3A) ∧
    (∀ a, acknowledges t a = true ↔ a = t.slaveAddress) ∧
    (∀ r code, (r = 0 ∧ code = codeA) ∨ (r = 1 ∧ code = codeB) →
      (t.rank r).presence = code ∧
      (t.rank r).state = (if code = 0 then .absent else .pause) ∧
      (t.rank r).pauseTimer = (if code = 0 then none else some 2000) ∧
      (t.rank r).activity = .idle ∧ (t.rank r).openRow = none ∧ (t.rank r).closeDue = false ∧
      (t.rank r).rowOpenTimer = none ∧ (t.rank r).balance = 0 ∧ (t.rank r).rowCounter = 0 ∧
      (t.rank r).doubt = false ∧ (t.rank r).intervalTimer = none ∧ (t.rank r).wakeCount = 0) ∧
    t.settings =
      { discard := 16, holdTime := 20, interval := 78, threshold := 6, streakLimit := 4,
        pagePolicy := .leaveOpen, pullIn := true } ∧
    t.sched = { pointer := 0, streakPort := none, streakCount := 0, refreshPaused := false } ∧
    t.warm = .idle ∧ t.powerOnAsserted = false ∧ t.bus = none ∧ t.table = [] ∧
    (∀ c, counterValue t c = 0 ∧ snapshotValue t c = 0) ∧ t.indexPointer = 0 ∧
    t.deviceFlags = (if codeA = 0 ∧ codeB = 0 then 0x20 else 0) ∧ t.deviceMask = 0xFF ∧
    (∀ p, (t.port p).mode = .off ∧ (t.port p).garbleCount = 0 ∧ (t.port p).flags = 0 ∧
      (t.port p).record = { kind := none, addr := 0, cause := .none, more := false } ∧
      (t.port p).eventMask = 0x1F ∧ (t.port p).limit = 6 ∧ (t.port p).queue = [] ∧
      (t.port p).taken = 0 ∧ (t.port p).written = 0 ∧ (t.port p).hold = none ∧
      (t.port p).lastHoldExpired = false ∧ (t.port p).answers = [] ∧
      (t.port p).resetLine = (s.port p).resetLine) ∧
    (∀ w, (t.window w).staged = false ∧ (t.window w).staging = (t.window w).active ∧
      (t.window w).active =
        { base := 0xFFFF, limit := 0, rights := 0, prefetchable := false, claimable := false } ∧
      inUse t w = false) ∧
    (∀ a, t.memory.find a = none) ∧ t.pending = s.pending

/-! ### Frames and registers as words -/

/-- Every frame command is read back from the bytes a host sends for it: kind code, length, tag,
address, header check and data part with parity and mask bits; and a change of any one header byte makes
the frame a garbled one, with the tag it holds (R151, R152). -/
def Obligations.FramesDecodeEncode : Prop :=
  ∀ (i : Instr) (p : Port) (bs : List Byte),
    WellFormed i = true → bytesOfFrame i = some (p, bs) →
      frameOfBytes p bs = i ∧
        ∀ (k : Nat) (b : Byte), k < 8 → bs[k]? ≠ some b →
          frameOfBytes p (bs.set k b) = .garbledFrame p ((bs.set k b).getD 2 0)

/-- Every management command is read back from the index and the data byte written for it, and every
register from its index (R170, R172, R174). -/
def Obligations.RegisterWritesDecodeEncode : Prop :=
  (∀ (i : Instr) (index v : Byte),
    WellFormed i = true → writeOfCommand i = some (index, v) → commandOfWrite index v = i) ∧
    (∀ x : Register, x ≠ .unassigned → registerAt x.index = x) ∧
    ∀ c : CounterId, (Register.counterHigh c).index = (Register.counterLow c).index + 1

/-- The answer check makes the XOR of bytes 0 to 5 of every answer zero; an answer echoes the tag in
byte 2, carries the poison mask of DATA in bytes 3 and 4 and zero there otherwise, and is 6 bytes long,
with 9 more for each delivered word and 8 more for STATE (R151, R152). -/
def Obligations.AnswerFramesAreChecked : Prop :=
  ∀ a : Answer,
    xorBytes (a.bytes.take 6) = 0 ∧
      a.bytes.getD 2 0 = a.tag ∧
      (∀ tag words i, a = .data tag words → words.length ≤ 16 → i < 16 →
        ((a.bytes.getD 4 0 ++ a.bytes.getD 3 0 : BitVec 16).getLsbD i =
            (words[i]?.map (·.poison)).getD false)) ∧
      ((∀ tag words, a ≠ .data tag words) → a.bytes.getD 3 0 = 0 ∧ a.bytes.getD 4 0 = 0) ∧
      a.bytes.length =
        match a with
        | .data _ words => 6 + 9 * words.length
        | .state _ _ _ => 14
        | _ => 6

/-! ### The window map and the memory map -/

/-- The window step (R65): the lowest-numbered window whose range contains the address decides alone; it
passes a FETCH with READ or READ_WRITE, a PUT or PUT_SYNC with READ_WRITE, and a CLAIM with READ_WRITE
when it is claimable. A window with base above limit contains no address, and code 3 is no right. -/
def Obligations.LowestWindowDecides : Prop :=
  ∀ (s : State) (p : Port) (k : Purpose) (addr : Addr) (w : WindowId),
    let record (v : WindowId) := (s.window v).active
    let inside (v : WindowId) : Prop :=
      (record v).base.toNat * 65536 ≤ addr.toNat ∧
        addr.toNat ≤ (record v).limit.toNat * 65536 + 65535
    let code := (record w).rights.extractLsb' (2 * p.val) 2
    decodeWindow s p k addr = some w ↔
      (inside w ∧ ∀ v, v < w → ¬ inside v) ∧
        match k with
        | .fetch => code = 1#2 ∨ code = 2#2
        | .write => code = 2#2
        | .claim => code = 2#2 ∧ (record w).claimable = true

/-- The memory map (R72, R73, R74): rank 0 occupies the addresses below its capacity, rank 1 those from
there to the sum of both capacities, 64 MiB, 128 MiB or 256 MiB for codes 1 to 3 and none for code 0;
the row is the offset within the rank divided by 8192, below the rank's row count. -/
def Obligations.MemoryMapPlacesAddresses : Prop :=
  ∀ (s : State) (addr : Addr) (place : Place),
    let size (code : BitVec 2) : Nat :=
      if code = 0 then 0 else 2 ^ (25 + code.toNat)
    let c0 := size (s.rank 0).presence
    let c1 := size (s.rank 1).presence
    (placeOf s addr = none ↔ c0 + c1 ≤ addr.toNat) ∧
      (placeOf s addr = some place →
        place.row < rowsOf (s.rank place.rank).presence ∧
          ∃ offset, offset / 8192 = place.row ∧
            ((place.rank = 0 ∧ addr.toNat = offset ∧ offset < c0) ∨
              (place.rank = 1 ∧ addr.toNat = c0 + offset ∧ offset < c1)))

/-! ### Request frames -/

/-- The refusals of the check order (R28, R32, R33, R37, R38, R39, R40), in their order: PORT_OFF for
every kind but STATUS while the port is OFF or FAULT; FORM for a malformed request and for an unnamed
kind; and for new work QUIESCED while the port is DRAINING or QUIET, WINDOW, NO_MEMORY, and DOUBLE for a
second CLAIM. Each raises DENIED with the address carried and the reason, is answered DENY, and changes
nothing else but the garble count (R44). -/
def Obligations.CheckOrderRefuses : Prop :=
  ∀ (s : State) (c : Instr) (p : Port) (tag : Byte) (addr : Addr),
    linkJudges s p → WellFormed c = true → refusable c = some (p, tag, addr) →
    let refusedWith (r : Reason) : Prop :=
      exec c s = .next (s.setPort p ((s.port p).refused tag addr r))
    let on := (s.port p).mode ≠ .off ∧ (s.port p).mode ≠ .fault
    let fresh := ∀ k, matchedKind c = some k → ∀ e ∈ s.table, ¬ e.hasKey p k addr
    ((s.port p).mode = .off ∨ (s.port p).mode = .fault → refusedWith .portOff) ∧
      (on → malformed c → refusedWith .form) ∧
      ∀ k, purposeOf c = some k → on → ¬ malformed c → fresh →
        ((s.port p).mode = .draining ∨ (s.port p).mode = .quiet → refusedWith .quiesced) ∧
          ((s.port p).mode = .active →
            (decodeWindow s p k addr = none → refusedWith .window) ∧
              ∀ w, decodeWindow s p k addr = some w →
                (totalCapacity s ≤ addr.toNat → refusedWith .noMemory) ∧
                  (addr.toNat < totalCapacity s → k = .claim →
                    (s.port p).hold ≠ none ∨ (∃ e ∈ s.table, e.port = p ∧ e.kind = .claim) →
                      refusedWith .double))

/-- STATUS (R31, R165): answered STATE in every port state with the flags and the record as they stand,
which it clears; nothing else changes but the garble count. -/
def Obligations.StatusReturnsAndClears : Prop :=
  ∀ (s : State) (p : Port) (tag : Byte) (addr : Addr) (len : Byte), linkJudges s p →
    exec (.status p tag addr len) s =
      .next (s.setPort p
        (({ (s.port p).headerPassed with
            flags := 0
            record := { kind := none, addr := 0, cause := .none, more := false } } : PortUnit).answered
          (.state tag (s.port p).flags (s.port p).record)))

/-- A FETCH that matches no entry, passes the check order and finds room under the reserve and limit (R2,
R15, R42, R54): the lowest-numbered FREE entry is created at the young end of the age order, QUEUED, with
the window's prefetch flag and the port's taken count as its fence, met when every PUT taken has been
written; the answer is AGAIN. -/
def Obligations.FetchCreatesEntry : Prop :=
  ∀ (s : State) (p : Port) (tag : Byte) (addr : Addr) (len : Byte) (w : WindowId) (place : Place)
    (n : Slot),
    linkJudges s p → (s.port p).mode = .active → ¬ malformed (.fetch p tag addr len) →
    (∀ e ∈ s.table, ¬ e.hasKey p .fetch addr) →
    decodeWindow s p .fetch addr = some w → placeOf s addr = some place → reserveAllows s p →
    (∀ e ∈ s.table, e.slot ≠ n) → (∀ m, m < n → ∃ e ∈ s.table, e.slot = m) →
    exec (.fetch p tag addr len) s =
      .next
        { s with
          table := s.table ++
            [{ slot := n, port := p, kind := .fetch, state := .queued, addr := addr
               length := len.toNat, place := some place, window := w
               prefetch := (s.window w).active.prefetchable
               fence := (s.port p).taken
               fenceMet := decide ((s.port p).taken = (s.port p).written)
               writeData := [], readData := [], result := none
               leftover := false, orphan := false, discardTimer := none }]
          ports := s.ports.set p ((s.port p).headerPassed.answered (.again tag)) }

/-- A PUT_SYNC that matches no entry, passes the check order and finds room under the reserve and limit
(R2, R15, R42, R45, R54, R137, R138): as for a FETCH, with the write data held byte for byte as they
arrived; every byte whose mask is set and that holds, with its parity bit, an even number of ones is
marked, and with a marked byte HOST_PARITY is raised and counted once. -/
def Obligations.PutSyncCreatesEntry : Prop :=
  ∀ (s : State) (p : Port) (tag : Byte) (addr : Addr) (len : Byte) (data : List LinkWord)
    (w : WindowId) (place : Place) (n : Slot),
    linkJudges s p → (s.port p).mode = .active → ¬ malformed (.putSync p tag addr len data) →
    data.length = len.toNat → (∀ e ∈ s.table, ¬ e.hasKey p .putSync addr) →
    decodeWindow s p .write addr = some w → placeOf s addr = some place → reserveAllows s p →
    (∀ e ∈ s.table, e.slot ≠ n) → (∀ m, m < n → ∃ e ∈ s.table, e.slot = m) →
    ∃ words, words.length = data.length ∧
      (∀ (j : Nat) (h : HeldWord) (x : LinkWord) (i : Fin 8),
        words[j]? = some h → data[j]? = some x →
          (h.get i).data = (x.get i).data ∧ (h.get i).parity = (x.get i).parity ∧
            (h.get i).mask = (x.get i).mask ∧
            ((h.get i).mark = true ↔
              (x.get i).mask = true ∧ onesOf (x.get i).data (x.get i).parity % 2 = 0)) ∧
      exec (.putSync p tag addr len data) s =
        .next
          { s with
            table := s.table ++
              [{ slot := n, port := p, kind := .putSync, state := .queued, addr := addr
                 length := len.toNat, place := some place, window := w, prefetch := false
                 fence := (s.port p).taken
                 fenceMet := decide ((s.port p).taken = (s.port p).written)
                 writeData := words, readData := [], result := none
                 leftover := false, orphan := false, discardTimer := none }]
            ports := s.ports.set p
              (((s.port p).headerPassed.tookData addr words).answered (.again tag)) }

/-- A CLAIM that matches no entry, passes the check order and finds room under the reserve and limit (R2,
R15, R42): its entry is created, last hold expired is cleared, and the hold unit evaluates grants, the
new claim among them; the answer is AGAIN, granted or not. -/
def Obligations.ClaimCreatesEntry : Prop :=
  ∀ (s : State) (p : Port) (tag : Byte) (addr : Addr) (len : Byte) (w : WindowId) (n : Slot),
    linkJudges s p → (s.port p).mode = .active → ¬ malformed (.claim p tag addr len) →
    (∀ e ∈ s.table, ¬ (e.port = p ∧ e.kind = .claim)) → (s.port p).hold = none →
    decodeWindow s p .claim addr = some w → addr.toNat < totalCapacity s → reserveAllows s p →
    (∀ e ∈ s.table, e.slot ≠ n) → (∀ m, m < n → ∃ e ∈ s.table, e.slot = m) →
    let created : State :=
      { s with
        table := s.table ++
          [{ slot := n, port := p, kind := .claim, state := .queued, addr := addr
             length := len.toNat, place := none, window := w, prefetch := false
             fence := (s.port p).taken
             fenceMet := decide ((s.port p).taken = (s.port p).written)
             writeData := [], readData := [], result := none
             leftover := false, orphan := false, discardTimer := none }]
        ports := s.ports.set p { (s.port p).headerPassed with lastHoldExpired := false } }
    let granted := evaluateGrants created
    exec (.claim p tag addr len) s =
      .next (granted.setPort p ((granted.port p).answered (.again tag)))

/-- A PUT that passes the check order to its last step (R41, R43, R45, R47, R48, R49, R188). With 8 PUTs
queued it is answered AGAIN and the full counter advances; over another port's hold, or over another
port's QUEUED CLAIM at a byte outside its own hold, it is answered AGAIN and leaves no trace; otherwise
it is TAKEN at the tail of the queue under the advanced taken count, its data held as they arrived. -/
def Obligations.PutIsTakenOrTurnedAway : Prop :=
  ∀ (s : State) (p : Port) (tag : Byte) (addr : Addr) (len : Byte) (data : List LinkWord)
    (w : WindowId) (place : Place),
    linkJudges s p → (s.port p).mode = .active → ¬ malformed (.put p tag addr len data) →
    data.length = len.toNat →
    decodeWindow s p .write addr = some w → placeOf s addr = some place →
    let u := (s.port p).headerPassed
    let range := wordSpan addr len.toNat
    let heldBack := foreignHoldMeets s p range ∨ ∃ c ∈ s.table, fences s p range c
    let words := heldAsArrived data
    (8 ≤ (s.port p).queue.length →
      exec (.put p tag addr len data) s =
        .next (s.setPort p ((u.counted .full 1).answered (.again tag)))) ∧
      ((s.port p).queue.length < 8 → heldBack →
        exec (.put p tag addr len data) s = .next (s.setPort p (u.answered (.again tag)))) ∧
      ((s.port p).queue.length < 8 → ¬ heldBack →
        exec (.put p tag addr len data) s =
          .next (s.setPort p
            ((({ u with
                 taken := (s.port p).taken + 1
                 queue := (s.port p).queue ++
                   [{ seq := (s.port p).taken + 1, addr := addr, length := len.toNat, words := words
                      place := place, window := w, inFlight := false }] } : PortUnit).tookData
                addr words).answered (.taken tag))))

/-- A FETCH that finds a READY entry of its key delivers its words (R10, R11, R12, R144): a leftover
whatever the length, another entry when the length agrees. The first words are answered as DATA, POISON
is raised for a marked one and counted by words. With none left the entry is freed; when another FETCH
entry of the port holds the address of the first undelivered word, it is freed and the rest of its marks
are counted as suppressed; otherwise it becomes, or stays, a leftover in its place in the age order with
a fresh discard timer. A drain this completes is completed. -/
def Obligations.FetchDeliversReadyWords : Prop :=
  ∀ (s : State) (p : Port) (tag : Byte) (addr : Addr) (len : Byte) (e : Entry),
    linkJudges s p → (s.port p).mode ≠ .off → (s.port p).mode ≠ .fault →
    ¬ malformed (.fetch p tag addr len) → keyLaw s →
    e ∈ s.table → e.hasKey p .fetch addr → e.orphan = false → e.state = .ready →
    agreesWith (.fetch p tag addr len) e →
    let words := e.readData.take len.toNat
    let rest := e.readData.drop len.toNat
    let next := addWords addr len.toNat
    let without := s.table.filter fun x => decide (x.slot ≠ e.slot)
    let taken := ∃ f ∈ s.table, f.hasKey p .fetch next ∧ f.orphan = false
    ∃ t, exec (.fetch p tag addr len) s = .next t ∧
      t.port p =
        { ((s.port p).headerPassed.delivered addr words).answered (.data tag words) with
          mode := drainTested t p (s.port p).mode } ∧
      (rest = [] → t.table = without ∧ t.counters = s.counters) ∧
      (rest ≠ [] → taken → t.table = without ∧ t.counters = s.counters.suppressed rest) ∧
      (rest ≠ [] → ¬ taken →
        t.counters = s.counters ∧
          t.table = s.table.map fun x =>
            if x.slot = e.slot then
              { e with
                addr := next, length := rest.length, leftover := true, readData := rest
                discardTimer := some (s.settings.discard.toNat * 40) }
            else x) ∧
      t = { s with table := t.table, counters := t.counters, ports := s.ports.set p (t.port p) }

/-- A PUT_SYNC or CLAIM that finds a READY entry it agrees with collects the result (R10, R141): DONE
with the marked flag of a PUT_SYNC, DONE for a granted CLAIM, DENY LATE for a CLAIM whose hold has been
taken. The entry is freed, a hold stays, and a drain this completes is completed. -/
def Obligations.ResultsAreCollected : Prop :=
  ∀ (s : State) (c : Instr) (k : EntryKind) (p : Port) (tag : Byte) (addr : Addr) (e : Entry),
    linkJudges s p → (s.port p).mode ≠ .off → (s.port p).mode ≠ .fault →
    WellFormed c = true → ¬ malformed c → refusable c = some (p, tag, addr) →
    matchedKind c = some k → k ≠ .fetch → keyLaw s →
    e ∈ s.table → e.hasKey p k addr → e.orphan = false → e.state = .ready → agreesWith c e →
    ∃ t, exec c s = .next t ∧
      t.table = s.table.filter (fun x => decide (x.slot ≠ e.slot)) ∧
      (k = .putSync →
        t.port p =
          { (s.port p).headerPassed.answered (.done tag (e.result == some true)) with
            mode := drainTested t p (s.port p).mode }) ∧
      (k = .claim → e.result = some true →
        t.port p =
          { (s.port p).headerPassed.answered (.done tag false) with
            mode := drainTested t p (s.port p).mode }) ∧
      (k = .claim → e.result ≠ some true →
        t.port p =
          { (s.port p).refused tag addr .late with
            mode := drainTested t p (s.port p).mode }) ∧
      t = { s with table := t.table, ports := s.ports.set p (t.port p) }

/-- A FETCH, PUT_SYNC or CLAIM with the key of an entry that is not handed over (R8, R9, R10): an orphan's
key is answered AGAIN with nothing created or counted; a QUEUED or ISSUED entry that agrees is answered
AGAIN; one that does not agree is answered DENY MISMATCH, in any state; the entry is not touched. -/
def Obligations.MatchedRequestsLeaveTheEntry : Prop :=
  ∀ (s : State) (c : Instr) (k : EntryKind) (p : Port) (tag : Byte) (addr : Addr) (e : Entry),
    linkJudges s p → (s.port p).mode ≠ .off → (s.port p).mode ≠ .fault →
    WellFormed c = true → ¬ malformed c → refusable c = some (p, tag, addr) →
    matchedKind c = some k → keyLaw s → e ∈ s.table → e.hasKey p k addr →
    ((∀ f ∈ s.table, f.hasKey p k addr → f.orphan = true) →
      exec c s = .next (s.setPort p ((s.port p).headerPassed.answered (.again tag)))) ∧
      (e.orphan = false → agreesWith c e → e.leftover = false → e.state ≠ .ready →
        exec c s = .next (s.setPort p ((s.port p).headerPassed.answered (.again tag)))) ∧
      (e.orphan = false → ¬ agreesWith c e →
        exec c s = .next (s.setPort p ((s.port p).refused tag addr .mismatch)))

/-- No room for a new request (R15, R16, R43). With no leftover of its port a FETCH, PUT_SYNC or CLAIM is
answered AGAIN, leaves nothing behind, and the full counter advances. With one, the port's oldest leftover
is discarded, its marks counted as suppressed, and the request's own entry is created at the young end
under that number, with all that its creation brings: a PUT_SYNC's data and HOST_PARITY, a CLAIM's cleared
last hold expired and evaluation of grants. The answer is AGAIN, and the full counter stays. The number is
the model's reading of R16 (notes/assumptions/12.md). -/
def Obligations.NoRoomReclaimsOrCountsFull : Prop :=
  ∀ (s : State) (c : Instr) (k : Purpose) (m : EntryKind) (p : Port) (tag : Byte) (addr : Addr)
    (w : WindowId) (place : Place),
    linkJudges s p → (s.port p).mode = .active → WellFormed c = true → ¬ malformed c →
    refusable c = some (p, tag, addr) → purposeOf c = some k → matchedKind c = some m →
    (∀ e ∈ s.table, ¬ e.hasKey p m addr) →
    (m = .claim → (s.port p).hold = none ∧ ∀ e ∈ s.table, ¬ (e.port = p ∧ e.kind = .claim)) →
    decodeWindow s p k addr = some w → placeOf s addr = some place → ¬ reserveAllows s p →
    let u := (s.port p).headerPassed
    ((∀ e ∈ s.table, e.port = p → e.leftover = false) →
      exec c s = .next (s.setPort p ((u.counted .full 1).answered (.again tag)))) ∧
      ∀ older e younger, s.table = older ++ e :: younger → e.port = p → e.leftover = true →
        (∀ x ∈ older, x.port = p → x.leftover = false) → slotsDistinct s →
        let entry (len : Byte) (words : List HeldWord) : Entry :=
          { slot := e.slot, port := p, kind := m, state := .queued, addr := addr
            length := len.toNat, place := if m = .claim then none else some place, window := w
            prefetch := decide (m = .fetch) && (s.window w).active.prefetchable
            fence := (s.port p).taken
            fenceMet := decide ((s.port p).taken = (s.port p).written)
            writeData := words, readData := [], result := none
            leftover := false, orphan := false, discardTimer := none }
        let created (x : Entry) (v : PortUnit) : State :=
          { s with
            table := older ++ younger ++ [x]
            counters := s.counters.suppressed e.readData
            ports := s.ports.set p v }
        (∀ len, c = .fetch p tag addr len →
          exec c s = .next (created (entry len []) (u.answered (.again tag)))) ∧
          (∀ len data, c = .putSync p tag addr len data →
            let words := heldAsArrived data
            exec c s =
              .next (created (entry len words)
                ((u.tookData addr words).answered (.again tag)))) ∧
          ∀ len, c = .claim p tag addr len →
            let granted := evaluateGrants (created (entry len []) { u with lastHoldExpired := false })
            exec c s = .next (granted.setPort p ((granted.port p).answered (.again tag)))

/-- DROP (R34, R35). At the base of the port's active hold it is answered DONE: the hold is released, a
CLAIM entry of it still READY with granted = yes is freed with no event, grants are evaluated, last hold
expired is left, and a drain this completes is completed. Otherwise it is refused LATE when last hold
expired is set and NOT_HELD when it is not, and nothing is released. -/
def Obligations.DropReleasesTheHold : Prop :=
  ∀ (s : State) (p : Port) (tag : Byte) (addr : Addr) (len : Byte),
    linkJudges s p → (s.port p).mode ≠ .off → (s.port p).mode ≠ .fault → addr.toNat % 64 = 0 →
    (∀ h, (s.port p).hold = some h → h.base = addr → claimLaw s →
      let released : State :=
        { s with
          table := s.table.filter fun e =>
            decide (¬ (e.port = p ∧ e.kind = .claim ∧ e.state = .ready ∧ e.result = some true))
          ports := s.ports.set p { (s.port p).headerPassed with hold := none } }
      let granted := evaluateGrants released
      ∃ t, exec (.drop p tag addr len) s = .next t ∧
        t.port p =
          { ({ (s.port p).headerPassed with hold := none } : PortUnit).answered
              (.done tag false) with
            mode := drainTested t p (s.port p).mode } ∧
        t = { granted with ports := granted.ports.set p (t.port p) }) ∧
      ((∀ h, (s.port p).hold = some h → h.base ≠ addr) →
        exec (.drop p tag addr len) s =
          .next (s.setPort p ((s.port p).refused tag addr
            (if (s.port p).lastHoldExpired then .late else .notHeld))))

/-- A garbled frame, or any frame that began before the previous answer ended (R29, R153, R154, R157): it
is answered DENY GARBLED with its tag, sets no event, and the garble count advances. At the fourth the
count returns to 0, and unless the port is in FAULT already it enters FAULT with its cleanup, grants are
evaluated and PORT_FAULT(p) is set. -/
def Obligations.GarbledFramesLeadToFault : Prop :=
  ∀ (s : State) (c : Instr) (p : Port) (tag : Byte),
    s.powerOnAsserted = false → (s.port p).resetLine = false → s.warm = .idle →
    frameOf c = some (p, tag) →
    (c = .garbledFrame p tag ∧ (s.port p).receiving ≠ some .heldOff ∨
      (s.port p).receiving = some .overlapping) →
    let u := s.port p
    let denied := Answer.deny tag .garbled
    (u.garbleCount < 3 →
      exec c s = .next (s.setPort p
        (({ u with garbleCount := u.garbleCount + 1 } : PortUnit).answered denied))) ∧
      (3 ≤ u.garbleCount → u.mode = .fault →
        exec c s = .next (s.setPort p (({ u with garbleCount := 0 } : PortUnit).answered denied))) ∧
      (3 ≤ u.garbleCount → u.mode ≠ .fault →
        let cleaned := cleanedUp (s.setPort p { u with mode := .fault }) p
        let granted := evaluateGrants cleaned
        exec c s =
          .next
            { granted with
              deviceFlags := s.deviceFlags ||| BitVec.ofNat 8 (2 ^ (p.val + 1))
              ports := granted.ports.set p ((cleaned.port p).answered denied) })

/-- Frames that are not judged (R27, R30, R160, R186). Under the port-reset line or power-on reset, or
when it began under one, a frame is not taken: no answer, no effect (of one that outlasts the reset, the
model's reading, notes/assumptions/8.md). Otherwise, while a warm reset is in progress, it is answered
DENY PORT_OFF with its tag and nothing else happens. -/
def Obligations.FramesUnderResets : Prop :=
  ∀ (s : State) (c : Instr) (p : Port) (tag : Byte), frameOf c = some (p, tag) →
    (s.powerOnAsserted = true ∨ (s.port p).resetLine = true ∨
        (s.port p).receiving = some .heldOff →
      exec c s = .next (s.setPort p { s.port p with receiving := none })) ∧
      (s.powerOnAsserted = false → (s.port p).resetLine = false →
        (s.port p).receiving ≠ some .heldOff → s.warm ≠ .idle →
          exec c s = .next (s.setPort p ((s.port p).answered (.deny tag .portOff))))

/-- FRAME_BEGIN and ANSWER_SENT (R153, R160): a frame that begins while an answer is still being sent
overlaps it, unless it is the first after a warm reset; one that begins under the port-reset line or
power-on reset is held off; any other begins a new exchange. An answer that has been sent leaves the
link, and one waiting behind it follows. The marks are the model's (notes/assumptions/7.md to 9.md). -/
def Obligations.LinkEventsMarkExchanges : Prop :=
  ∀ (s : State) (p : Port),
    (∃ start, exec (.frameBegin p) s =
        .next (s.setPort p { s.port p with receiving := some start, freshLink := false }) ∧
      (start = .heldOff ↔ s.powerOnAsserted = true ∨ (s.port p).resetLine = true) ∧
      (start = .overlapping ↔
        s.powerOnAsserted = false ∧ (s.port p).resetLine = false ∧ (s.port p).answers ≠ [] ∧
          (s.port p).freshLink = false)) ∧
      ∀ a rest, (s.port p).answers = a :: rest →
        exec (.answerSent p) s = .next (s.setPort p { s.port p with answers := rest })

/-! ### Holds -/

/-- When a QUEUED CLAIM is grantable (R81): no active hold meets its span; no older QUEUED CLAIM of another
port does, and no older PUT_SYNC of another port that is QUEUED or ISSUED; no PUT queued by another port
does; and no ACCESS in progress on behalf of another port. -/
def Obligations.GrantConditions : Prop :=
  ∀ (s : State) (c : Entry),
    let older := s.table.takeWhile fun e => e.slot != c.slot
    grantable s c = true ↔
      (∀ q h, (s.port q).hold = some h → ¬ h.span.meets c.claimSpan) ∧
        (∀ e ∈ older, e.port ≠ c.port → e.kind = .claim → e.state = .queued →
          ¬ e.claimSpan.meets c.claimSpan) ∧
        (∀ e ∈ older, e.port ≠ c.port → e.kind = .putSync → e.state ≠ .ready →
          ¬ e.accessSpan.meets c.claimSpan) ∧
        (∀ q, q ≠ c.port → ∀ w ∈ (s.port q).queue, ¬ w.span.meets c.claimSpan) ∧
        ∀ a, s.bus = some (.access a) → a.port ≠ c.port → ¬ a.span.meets c.claimSpan

/-- An evaluation grants all it can, and no more (R81, R82, R83). It grants exactly the QUEUED CLAIM
entries that are grantable: each becomes READY with granted = yes and a fresh discard timer, and its
port's slot holds its span, its window and a fresh hold timer, with last hold expired cleared. Every other
entry, a port none of whose claims is granted, and everything else are unchanged, and no QUEUED CLAIM
left is grantable. -/
def Obligations.EvaluationGrantsAllItCan : Prop :=
  ∀ s : State, claimLaw s →
    let t := evaluateGrants s
    let isGranted (c : Entry) : Prop :=
      c.kind = .claim ∧ c.state = .queued ∧ grantable s c = true
    (∀ c ∈ t.table, c.kind = .claim → c.state = .queued → grantable t c = false) ∧
      t.table = s.table.map (fun c =>
        if isGranted c then
          { c with
            state := .ready, result := some true
            discardTimer := some (s.settings.discard.toNat * 40) }
        else c) ∧
      (∀ c ∈ s.table, isGranted c →
        t.port c.port =
          { s.port c.port with
            hold := some
              { base := c.addr, units := c.length, window := c.window
                timer := s.settings.holdTime.toNat * 100 }
            lastHoldExpired := false }) ∧
      (∀ p, (∀ c ∈ s.table, c.port = p → ¬ isGranted c) → t.port p = s.port p) ∧
      t = { s with table := t.table, ports := t.ports }

/-- HOLD_TIMER_EXPIRY and REVOKE (R87, R88, R89): an active hold ends with HOLD_EXPIRED raised at its base
with cause TIMER or REVOKED, last hold expired set, a CLAIM entry still READY with granted = yes turned
to granted = no, grants evaluated, and a drain this completes completed; with the slot FREE nothing
happens. REVOKE also moves the index pointer. The expiry is taken whatever time is left (the model's
choice, notes/assumptions/5.md). -/
def Obligations.HoldsEndByTimerOrRevoke : Prop :=
  ∀ (s : State) (p : Port) (c : Instr) (cause : Cause) (pointer : Byte),
    (c = .holdTimerExpiry p ∧ cause = .timer ∧ pointer = s.indexPointer ∨
      c = .revoke p ∧ cause = .revoked ∧ commandsTaken s ∧ pointer = 5) →
    ((s.port p).hold = none → drainTested s p (s.port p).mode = (s.port p).mode →
      exec c s = .next { s with indexPointer := pointer }) ∧
      ∀ h, (s.port p).hold = some h → claimLaw s →
        let ended : State :=
          { s with
            table := s.table.map fun e =>
              if e.port = p ∧ e.kind = .claim ∧ e.state = .ready ∧ e.result = some true then
                { e with result := some false }
              else e
            ports := s.ports.set p
              (({ s.port p with hold := none, lastHoldExpired := true } : PortUnit).raised
                .holdExpired h.base cause) }
        let granted := evaluateGrants ended
        ∃ t, exec c s = .next t ∧
          t.port p = { ended.port p with mode := drainTested t p (s.port p).mode } ∧
          t = { granted with
                ports := granted.ports.set p (t.port p)
                indexPointer := pointer }

/-! ### The scheduler -/

/-- Which table entries are issuable, and which work a port offers (R22, R23, R50, R55, R102): its oldest
issuable entry, which goes before the queue head; without one the head of its put queue, when the
head's rank is READY and it is not in flight. A FETCH with the prefetch flag is read to the end of its
128-byte block, any other entry's access covers its length (R4). -/
def Obligations.PortsOfferTheirOldestWork : Prop :=
  ∀ (s : State) (p : Port),
    (∀ e ∈ s.table, issuable s e = true ↔ mayIssue s e) ∧
      (∀ older e younger, s.table = older ++ e :: younger → e.port = p → mayIssue s e →
        (∀ x ∈ older, x.port = p → ¬ mayIssue s x) →
          ∃ place, e.place = some place ∧
            accessCandidate s p =
              some { port := p, work := .entry e.slot, write := e.kind == .putSync, place := place
                     base := e.addr
                     words :=
                       if e.kind = .fetch ∧ e.prefetch = true then (128 - e.addr.toNat % 128) / 8
                       else e.length }) ∧
      ((∀ e ∈ s.table, e.port = p → ¬ mayIssue s e) →
        (∀ q rest, (s.port p).queue = q :: rest →
          (s.rank q.place.rank).state = .ready → q.inFlight = false →
            accessCandidate s p =
              some { port := p, work := .putHead, write := true, place := q.place
                     base := q.addr, words := q.length }) ∧
          ((∀ q rest, (s.port p).queue = q :: rest →
              (s.rank q.place.rank).state ≠ .ready ∨ q.inFlight = true) →
            accessCandidate s p = none))

/-- DECISION, classes (a), (b) and (d) (R98, R100, R101, R103, R104, R110, R111, R128): with the bus FREE, a
forced refresh goes first, the lower rank before the higher; with none, the lower rank whose row is due
for closing is closed; with neither and no access, a pull-in goes to the rank with the higher balance,
rank 0 at equal balance. The rank becomes BUSY with no open row, the operation is recorded, and the
counter of a READY rank's refresh advances. Without a candidate, or with the bus BUSY, nothing is
issued. -/
def Obligations.DecisionsIssueRefreshesAndCloses : Prop :=
  ∀ s : State, s.powerOnAsserted = false → s.bus = none →
    let issued (r : RankId) (x : BusOp) (counters : DeviceCounters) : State :=
      { s with
        ranks := s.ranks.set r
          { s.rank r with
            activity := .busy, openRow := none, rowOpenTimer := none, closeDue := false }
        bus := some x
        counters := counters }
    let more (n : BitVec 16) : BitVec 16 := if n = 65535 then n else n + 1
    let noOther := (∀ r, ¬ refreshForced s r) ∧ (∀ r, ¬ closeDueNow s r) ∧
      (s.warm ≠ .idle ∨ ∀ p, accessCandidate s p = none)
    (∀ r, refreshForced s r → (∀ x, x < r → ¬ refreshForced s x) →
      ((s.rank r).state = .ready →
        exec .decision s = .next (issued r (.refresh r .forced)
          { s.counters with forcedRefresh := more s.counters.forcedRefresh })) ∧
        ((s.rank r).state = .wake → exec .decision s = .next (issued r (.refresh r .wake) s.counters))) ∧
      (∀ r, (∀ x, ¬ refreshForced s x) → closeDueNow s r → (∀ x, x < r → ¬ closeDueNow s x) →
        exec .decision s = .next (issued r (.close r) s.counters)) ∧
      (∀ r, noOther → pullInPossible s r →
        (∀ x, x ≠ r → pullInPossible s x →
          (s.rank x).balance < (s.rank r).balance ∨
            ((s.rank x).balance = (s.rank r).balance ∧ r < x)) →
        exec .decision s = .next (issued r (.refresh r .pullIn)
          { s.counters with pullInRefresh := more s.counters.pullInRefresh })) ∧
      (noOther → (∀ r, ¬ pullInPossible s r) → exec .decision s = .next s) ∧
      ∀ b, exec .decision { s with bus := some b } = .next { s with bus := some b }

/-- DECISION, class (c) (R96, R97, R104, R105, R106, R128): with no forced refresh and no close due, the
winner of the scan is issued: the record holds its work, range and the page policy; an entry becomes
ISSUED and a queue head in flight; a row hit leaves row, timer and mark, any other access opens its row
with 8 µs to go; the pointer moves past the winner and the streak follows it. -/
def Obligations.DecisionsIssueAccesses : Prop :=
  ∀ (s : State) (w : Port) (c : Candidate), s.powerOnAsserted = false → s.bus = none →
    (∀ r, ¬ refreshForced s r) → (∀ r, ¬ closeDueNow s r) → s.warm = .idle →
    accessCandidate s w = some c → winsAccess s w →
    let r := c.place.rank
    let hit := (s.rank r).activity = .rowOpen ∧ (s.rank r).openRow = some c.place.row
    ∃ t, exec .decision s = .next t ∧
      t.bus = some (.access
        { write := c.write, rank := r, row := c.place.row, port := w, work := c.work
          base := c.base, words := c.words, policy := s.settings.pagePolicy }) ∧
      t.sched =
        { s.sched with
          pointer := w + 1
          streakPort := some w
          streakCount :=
            if ¬ hit then 0
            else if s.sched.streakPort = some w then min 15 (s.sched.streakCount + 1) else 1 } ∧
      (hit → t.rank r = { s.rank r with activity := .busy }) ∧
      (¬ hit → t.rank r =
        { s.rank r with
          activity := .busy, openRow := some c.place.row, rowOpenTimer := some 80
          closeDue := false }) ∧
      (∀ n, c.work = .entry n →
        t.ports = s.ports ∧
          t.table = s.table.map fun e => if e.slot = n then { e with state := .issued } else e) ∧
      (c.work = .putHead →
        t.table = s.table ∧ (∀ q, q ≠ w → t.port q = s.port q) ∧
          ∀ h rest, (s.port w).queue = h :: rest →
            t.port w = { s.port w with queue := { h with inFlight := true } :: rest }) ∧
      t = { s with
            bus := t.bus, sched := t.sched, ranks := s.ranks.set r (t.rank r)
            ports := t.ports, table := t.table }

/-! ### Completions on the memory bus -/

/-- ACCESS_READ_COMPLETE (R4, R13, R128, R132, R142, R146): the words of the recorded range, each marked
when one of its bytes fails its parity check, go to the ISSUED entry, which becomes READY with a fresh
discard timer; an orphan is freed and its marks are counted as suppressed. The bus is FREE, the rank OPEN
or closed by the recorded policy, grants are evaluated, and a drain this completes is completed. A warm
reset in progress goes on as WarmResetPhases says. -/
def Obligations.ReadsComplete : Prop :=
  ∀ (s : State) (a : Access) (e : Entry), slotsDistinct s →
    s.bus = some (.access a) → a.write = false → a.base.toNat + 8 * a.words ≤ totalCapacity s →
    e ∈ s.table → a.work = .entry e.slot → e.state = .issued →
    let words := (List.range a.words).map fun i =>
      let bytes := Oct.ofFn fun j => s.memory.read s.powerOns (a.base.toNat + 8 * i + j.val)
      { bytes := bytes
        poison := decide
          (∃ j : Fin 8, onesOf (bytes.get j).data (bytes.get j).parity % 2 = 0) : ReadWord }
    let read : State :=
      { s with
        bus := none
        ranks := s.ranks.set a.rank
          (match a.policy with
           | .leaveOpen => { s.rank a.rank with activity := .rowOpen }
           | .close =>
             { s.rank a.rank with
               activity := .idle, openRow := none, rowOpenTimer := none, closeDue := false })
        table :=
          if e.orphan then s.table.filter fun x => decide (x.slot ≠ e.slot)
          else s.table.map fun x =>
            if x.slot = e.slot then
              { e with
                state := .ready, readData := words
                discardTimer := some (s.settings.discard.toNat * 40) }
            else x
        counters := if e.orphan then s.counters.suppressed words else s.counters }
    let granted := evaluateGrants read
    ∃ t, exec .accessReadComplete s = .next (warmStep t) ∧
      t.port a.port =
        { granted.port a.port with mode := drainTested t a.port (granted.port a.port).mode } ∧
      t = { granted with ports := granted.ports.set a.port (t.port a.port) }

/-- The coherence search (R58, R59, R146): a READY FETCH whose held range, or a leftover whose undelivered
words, contain a written word returns to QUEUED without its words and with its timer stopped, or is
freed with its marks counted as suppressed; a word is written when one of its masks is set. Every other
entry, and everything else, is left as it was. -/
def Obligations.CoherenceSearchDropsStaleWords : Prop :=
  ∀ (s : State) (base : Nat) (words : List HeldWord),
    let written (x : Nat) : Prop :=
      ∃ (j : Nat) (w : HeldWord) (i : Fin 8), words[j]? = some w ∧ (w.get i).mask = true ∧
        base + 8 * j ≤ x ∧ x < base + 8 * j + 8
    let held (e : Entry) : Span :=
      wordSpan e.addr
        (if e.leftover = true then e.length
        else if e.kind = .fetch ∧ e.prefetch = true then (128 - e.addr.toNat % 128) / 8
        else e.length)
    let stale (e : Entry) : Prop :=
      e.kind = .fetch ∧ e.state = .ready ∧ ∃ x, (held e).mem x ∧ written x
    ∀ decided : Entry → Bool, (∀ e, decided e = true ↔ stale e) →
      coherenceSearch s (writtenWords base words) =
        { s with
          table := (s.table.filter fun e => !(decided e && e.leftover)).map fun e =>
            if decided e then { e with state := .queued, readData := [], discardTimer := none }
            else e
          counters := s.counters.suppressed
            ((s.table.filter fun e => decided e && e.leftover).flatMap (·.readData)) }

/-- ACCESS_WRITE_COMPLETE (R5, R13, R51, R128, R132, R140, R141, R151): every byte of the recorded range
whose mask is set is stored as presented, with the host's parity bit, byte 0 of word 0 at the base and
the rest upward; every other byte of the memory is as before. A PUT's completion removes the head,
advances the written count and meets the fences that equal it; a PUT_SYNC becomes READY with its marked
result and a fresh discard timer, and an orphan is freed. Then the bus is FREE, the rank OPEN or closed
by the recorded policy, the coherence search runs, grants are evaluated, and every drain is tested. A
warm reset in progress goes on as WarmResetPhases says. -/
def Obligations.WritesComplete : Prop :=
  ∀ (s : State) (a : Access) (words : List HeldWord), slotsDistinct s →
    s.bus = some (.access a) → a.write = true → a.base.toNat + 8 * a.words ≤ totalCapacity s →
    let byteFor (x : Nat) : Option HeldByte :=
      if x < a.base.toNat then none
      else (words[(x - a.base.toNat) / 8]?).map fun w => w.get (Fin.ofNat 8 (x - a.base.toNat))
    let stored (memory : Memory) : Prop :=
      ∀ x,
        (∀ b, byteFor x = some b → b.mask = true →
          memory.read s.powerOns x = { data := b.data, parity := b.parity }) ∧
          ((∀ b, byteFor x = some b → b.mask = false) →
            memory.read s.powerOns x = s.memory.read s.powerOns x)
    let freed (memory : Memory) : State :=
      { s with
        memory := memory
        bus := none
        ranks := s.ranks.set a.rank
          (match a.policy with
           | .leaveOpen => { s.rank a.rank with activity := .rowOpen }
           | .close =>
             { s.rank a.rank with
               activity := .idle, openRow := none, rowOpenTimer := none, closeDue := false }) }
    let finished (x : State) : State :=
      let granted := evaluateGrants (coherenceSearch x (writtenWords a.base.toNat words))
      let tested (p : Port) : PortUnit :=
        { granted.port p with mode := drainTested granted p (granted.port p).mode }
      { granted with
        ports := { p0 := tested 0, p1 := tested 1, p2 := tested 2, p3 := tested 3 } }
    (∀ q rest, a.work = .putHead → (s.port a.port).queue = q :: rest → words = q.words →
      ∃ memory, stored memory ∧ exec .accessWriteComplete s = .next (warmStep (finished
        { freed memory with
          ports := s.ports.set a.port
            { s.port a.port with queue := rest, written := (s.port a.port).written + 1 }
          table := s.table.map fun e =>
            if e.port = a.port ∧ e.state = .queued ∧ e.kind ≠ .claim ∧
                e.fence = (s.port a.port).written + 1 then
              { e with fenceMet := true }
            else e }))) ∧
      ∀ e ∈ s.table, a.work = .entry e.slot → e.state = .issued → words = e.writeData →
        ∃ memory, stored memory ∧ exec .accessWriteComplete s = .next (warmStep (finished
          { freed memory with
            table :=
              if e.orphan then s.table.filter fun x => decide (x.slot ≠ e.slot)
              else s.table.map fun x =>
                if x.slot = e.slot then
                  { e with
                    state := .ready
                    result := some (decide (∃ w ∈ words, ∃ i : Fin 8, (w.get i).mark = true))
                    discardTimer := some (s.settings.discard.toNat * 40) }
                else x }))

/-- REFRESH_COMPLETE and INITIALIZATION_REFRESH_COMPLETE (R119, R120, R121, R125): the row counter advances,
wrapping from 4095 to 0, and the rank is IDLE with the bus FREE. A READY rank's balance falls by one, for
either class. In WAKE the wake count falls; at 0 the rank is READY with balance 0, its interval timer
loaded and its doubt clear, and INIT_DONE is set when no present rank is left that is not READY. -/
def Obligations.RefreshesComplete : Prop :=
  ∀ (s : State) (r : RankId) (k : RefreshClass), s.bus = some (.refresh r k) →
    let c := s.rank r
    let counted : RankControl := { c with activity := .idle, rowCounter := c.rowCounter + 1 }
    let after (x : RankControl) : State := { s with ranks := s.ranks.set r x, bus := none }
    let ready : RankControl :=
      { counted with
        wakeCount := 0, state := .ready, openRow := none, balance := 0, doubt := false
        intervalTimer := some s.settings.interval.toNat }
    (k ≠ .wake →
      exec .refreshComplete s =
        .next (warmStep (after { counted with balance := c.balance - 1 }))) ∧
      (k = .wake → 1 < c.wakeCount →
        exec .initializationRefreshComplete s =
          .next (warmStep (after { counted with wakeCount := c.wakeCount - 1 }))) ∧
      (k = .wake → c.wakeCount = 1 →
        exec .initializationRefreshComplete s =
          .next (warmStep
            { after ready with
              deviceFlags :=
                if ∀ x, x ≠ r → (s.rank x).state = .ready ∨ (s.rank x).state = .absent then
                  s.deviceFlags ||| 0x20
                else s.deviceFlags }))

/-- CLOSE_COMPLETE (R133), in every phase: the rank becomes IDLE and the bus FREE; the memory, the balance,
the row counter and the other rank are as they were. The row, timer and mark were cleared at the issue of
the CLOSE. The completion changes nothing else, and evaluates no grants, but for a warm reset in progress,
which tests at it whether a READY rank is still OPEN and ends when none is; one that waited for it takes
the clearing point. -/
def Obligations.ClosesComplete : Prop :=
  ∀ (s : State) (r : RankId), s.bus = some (.close r) →
    let closed : State :=
      { s with ranks := s.ranks.set r { s.rank r with activity := .idle }, bus := none }
    (∃ t, exec .closeComplete s = .next t ∧ t = warmStep closed ∧
      t.rank r = { s.rank r with activity := .idle } ∧ (∀ x, x ≠ r → t.rank x = s.rank x) ∧
      t.bus = none ∧ t.memory = s.memory) ∧
      (s.warm = .idle → exec .closeComplete s = .next closed) ∧
      (s.warm = .closing →
        ((∃ x, (closed.rank x).state = .ready ∧ (closed.rank x).activity = .rowOpen) →
          exec .closeComplete s = .next closed) ∧
          ((∀ x, (closed.rank x).state = .ready → (closed.rank x).activity ≠ .rowOpen) →
            ∃ t, exec .closeComplete s = .next t ∧ t.warm = .idle ∧ t.bus = none ∧
              t.deviceFlags = s.deviceFlags ||| 0x40 ∧ t.memory = s.memory ∧
              t.ranks = closed.ranks ∧ t.table = s.table ∧
              ∀ p, (t.port p).hold = (s.port p).hold)) ∧
      ∀ x t, x.bus = none → exec .decision x = .next t → t.bus = some (.close r) →
        (t.rank r).openRow = none ∧ (t.rank r).rowOpenTimer = none ∧
          (t.rank r).closeDue = false

/-! ### Timers -/

/-- DISCARD_TIMER_EXPIRY (R19, R90, R146): the READY entry whose timer runs is freed. A leftover goes
silently, its marks counted as suppressed; any other raises DISCARD with its address and is counted as
discarded, a FETCH's marks as suppressed too; a PUT_SYNC has grants evaluated; a granted CLAIM's hold is
released and grants are evaluated, with no HOLD_EXPIRED and last hold expired as it was. A drain this
completes is completed. -/
def Obligations.DiscardExpiryFreesTheEntry : Prop :=
  ∀ (s : State) (e : Entry), slotsDistinct s → e ∈ s.table → e.state = .ready →
    e.discardTimer ≠ none →
    let p := e.port
    let without := s.table.filter fun x => decide (x.slot ≠ e.slot)
    let discarded (u : PortUnit) : PortUnit := (u.raised .discard e.addr .none).counted .discard 1
    let freed (u : PortUnit) : State := { s with table := without, ports := s.ports.set p u }
    let after : State :=
      match e.kind with
      | .fetch =>
        { freed (if e.leftover then s.port p else discarded (s.port p)) with
          counters := s.counters.suppressed e.readData }
      | .putSync => evaluateGrants (freed (discarded (s.port p)))
      | .claim =>
        if e.result = some true then
          evaluateGrants (freed { discarded (s.port p) with hold := none })
        else freed (discarded (s.port p))
    ∃ t, exec (.discardTimerExpiry e.slot) s = .next t ∧
      t.port p = { after.port p with mode := drainTested t p (s.port p).mode } ∧
      t = { after with ports := after.ports.set p (t.port p) }

/-- INTERVAL_TIMER_EXPIRY (R123, R124): of a READY rank, whatever its activity and whether refresh is
paused. Below +8 the balance rises by one; at +8 it stays and there is an overrun: REFRESH_OVERRUN and
the rank's doubt are set and the overrun counter advances, saturating. The timer is loaded again with the
setting in effect. A rise to the threshold makes a forced refresh due unless refresh is paused, and
nothing in progress is cut short. -/
def Obligations.IntervalExpiryRaisesTheBalance : Prop :=
  ∀ (s : State) (r : RankId), (s.rank r).state = .ready → (s.rank r).intervalTimer ≠ none →
    let loaded : RankControl :=
      { s.rank r with intervalTimer := some s.settings.interval.toNat }
    ((s.rank r).balance < 8 →
      exec (.intervalTimerExpiry r) s =
        .next (s.setRank r { loaded with balance := (s.rank r).balance + 1 })) ∧
      (8 ≤ (s.rank r).balance →
        exec (.intervalTimerExpiry r) s =
          .next
            { s.setRank r { loaded with doubt := true } with
              deviceFlags := s.deviceFlags ||| 0x01
              counters :=
                { s.counters with
                  overrun :=
                    if s.counters.overrun = 65535 then 65535 else s.counters.overrun + 1 } }) ∧
      ∀ t, exec (.intervalTimerExpiry r) s = .next t →
        (refreshForced t r ↔
          (s.settings.threshold.toNat : Int) ≤ (t.rank r).balance ∧
            s.sched.refreshPaused = false) ∧
          t.bus = s.bus

/-- PAUSE_TIMER_EXPIRY (R118): the rank leaves PAUSE for WAKE owing eight initialization refreshes, IDLE,
with balance 0, and owes a forced refresh from then on; with the bus FREE a decision issues one, of the
lower rank that owes one. The other rank, the memory and everything else are as they were. -/
def Obligations.PauseExpiryWakesTheRank : Prop :=
  ∀ (s : State) (r : RankId), (s.rank r).state = .pause → (s.rank r).pauseTimer ≠ none →
    ∃ t, exec (.pauseTimerExpiry r) s = .next t ∧
      t = s.setRank r
        { s.rank r with
          state := .wake, wakeCount := 8, activity := .idle, balance := 0, pauseTimer := none } ∧
      refreshForced t r ∧
      (s.powerOnAsserted = false → s.bus = none →
        ∃ x k u, exec .decision t = .next u ∧ x ≤ r ∧ refreshForced t x ∧
          (∀ y, y < x → ¬ refreshForced t y) ∧ u.bus = some (.refresh x k))

/-- ROW_OPEN_TIMER_EXPIRY (R129): the close-due mark is set at once, also while an ACCESS on the rank is in
progress; one issued under policy OPEN completes with the mark set, one issued under CLOSE clears row and
mark. Of a rank that is not BUSY the close is then due. -/
def Obligations.RowTimerExpiryMakesTheCloseDue : Prop :=
  ∀ (s : State) (r : RankId), (s.rank r).rowOpenTimer ≠ none →
    exec (.rowOpenTimerExpiry r) s =
        .next (s.setRank r { s.rank r with rowOpenTimer := none, closeDue := true }) ∧
      ∀ t, exec (.rowOpenTimerExpiry r) s = .next t →
        ((s.rank r).state = .ready → (s.rank r).activity = .rowOpen → closeDueNow t r) ∧
          ∀ a u, s.bus = some (.access a) → a.rank = r → s.warm = .idle →
            (exec .accessReadComplete t = .next u ∧ a.write = false ∨
              exec .accessWriteComplete t = .next u ∧ a.write = true) →
              (a.policy = .leaveOpen →
                (u.rank r).activity = .rowOpen ∧ (u.rank r).openRow = (s.rank r).openRow ∧
                  (u.rank r).closeDue = true) ∧
                (a.policy = .close →
                  (u.rank r).activity = .idle ∧ (u.rank r).openRow = none ∧
                    (u.rank r).closeDue = false)

/-! ### The port-reset line -/

/-- PORT_RESET_ASSERT and PORT_RESET_RELEASE (R160, R162): the assertion runs the port cleanup, abandons a
frame being received, cuts off the answer being sent, and leaves port state (but for a drain it
completes), event mask, put queue, counts and limit; the release lets frames be taken again and changes
nothing else. That an answer waiting behind the one being sent is dropped with it is the model's choice
(notes/assumptions/28.md). -/
def Obligations.PortResetCleansThePort : Prop :=
  ∀ (s : State) (p : Port),
    (s.powerOnAsserted = false →
      let cut : PortUnit :=
        { s.port p with
          resetLine := true
          receiving := (s.port p).receiving.map fun _ => .heldOff
          answers := [] }
      let cleaned := cleanedUp (s.setPort p cut) p
      let granted := evaluateGrants cleaned
      ∃ t, exec (.portResetAssert p) s = .next t ∧
        t.port p = { cleaned.port p with mode := drainTested t p (s.port p).mode } ∧
        t = { granted with ports := granted.ports.set p (t.port p) }) ∧
      exec (.portResetRelease p) s = .next (s.setPort p { s.port p with resetLine := false })

/-! ### Management commands -/

/-- ENABLE and DRAIN (R156, R158): ENABLE takes an OFF, QUIET or FAULT port to ACTIVE with garble count 0
and leaves any other; DRAIN takes an ACTIVE port to DRAINING, and to QUIET at once when it holds no
entry, no queued PUT and no hold, and leaves any other. Flags, record, mask, table, queue, holds and
device flags are as they were, and the port-reset line does not matter. -/
def Obligations.EnableAndDrainMoveThePort : Prop :=
  ∀ (s : State) (p : Port), commandsTaken s →
    let u := s.port p
    let taken (v : PortUnit) : State := { s.setPort p v with indexPointer := 5 }
    (u.mode = .off ∨ u.mode = .quiet ∨ u.mode = .fault →
      exec (.enable p) s = .next (taken { u with mode := .active, garbleCount := 0 })) ∧
      (u.mode = .active ∨ u.mode = .draining → exec (.enable p) s = .next (taken u)) ∧
      (u.mode = .active →
        ((∀ e ∈ s.table, e.port ≠ p) → u.queue = [] → u.hold = none →
          exec (.drain p) s = .next (taken { u with mode := .quiet })) ∧
          ((∃ e ∈ s.table, e.port = p) ∨ u.queue ≠ [] ∨ u.hold ≠ none →
            exec (.drain p) s = .next (taken { u with mode := .draining }))) ∧
      (u.mode ≠ .active → exec (.drain p) s = .next (taken u))

/-- CLEAR_COUNTERS (R175): taken while the command state is IDLE it sets all twenty counters to 0, and
leaves the snapshots, the device flags, the port event flags and every other state. Each counter then
advances from 0: by its amount when the clear comes first, and to 0 when the advance does. While the
command state is BUSY it is refused, and the clearing point clears the counters nevertheless.
REFRESH_PAUSE, REFRESH_RESUME and CLEAR_DOUBT (R109, R127) each set their one bit, whatever it was, and
change nothing else. -/
def Obligations.ClearsAndPausesTouchTheirOwnState : Prop :=
  ∀ s : State, s.powerOnAsserted = false →
    (s.warm = .idle →
      ∃ t, exec .clearCounters s = .next t ∧
        (∀ p k, counterValue t (.port p k) = 0) ∧ (∀ k, counterValue t (.device k) = 0) ∧
        (∀ c, snapshotValue t c = snapshotValue s c) ∧ t.deviceFlags = s.deviceFlags ∧
        (∀ p, t.port p = { s.port p with counters := (t.port p).counters }) ∧
        t = { s with counters := t.counters, ports := t.ports, indexPointer := 5 } ∧
        ∀ (p : Port) (k : PortCounter) (d : DeviceCounter) (n : Nat), n ≤ 65535 →
          (counterValue (countPort t p k n) (.port p k)).toNat = n ∧
            (counterValue (countDevice t d n) (.device d)).toNat = n) ∧
      (s.warm ≠ .idle →
        exec .clearCounters s =
          .next { s with deviceFlags := s.deviceFlags ||| 0x80, indexPointer := 5 }) ∧
      (∀ p k, counterValue (clearAll s) (.port p k) = 0) ∧
      (∀ k, counterValue (clearAll s) (.device k) = 0) ∧
      ∀ r : RankId, s.warm = .idle →
        exec .refreshPause s =
            .next { s with sched := { s.sched with refreshPaused := true }, indexPointer := 5 } ∧
          exec .refreshResume s =
            .next { s with sched := { s.sched with refreshPaused := false }, indexPointer := 5 } ∧
          exec (.clearDoubt r) s =
            .next { s.setRank r { s.rank r with doubt := false } with indexPointer := 5 }

/-- Writes that are turned away. A code that names no command, and CLEAR_DOUBT of rank 2 or 3, in either
command state, and every command while the command state is BUSY (R174, R177), sets CMD_REFUSED, has no
other effect, and is not kept for later. While power-on reset is asserted the management port takes
nothing (R168, R186): no byte written, no command, no pointer, no counter read has any effect. -/
def Obligations.RefusedWritesChangeOneFlagOrNothing : Prop :=
  ∀ (s : State) (c : Instr),
    (s.powerOnAsserted = false → WellFormed c = true →
      (∃ v, writeOfCommand c = some (Register.command.index, v)) →
      s.warm ≠ .idle ∨ (∃ x, c = .unknownCommand x) →
      exec c s = .next { s with deviceFlags := s.deviceFlags ||| 0x80, indexPointer := 5 }) ∧
      (s.powerOnAsserted = true →
        ((∃ index v, writeOfCommand c = some (index, v)) ∨
          (∃ k, c = .counterLowByteRead k) ∨ (∃ v, c = .indexPointerSet v)) →
        exec c s = .next s)

/-- WARM_RESET and its phases (R180, R181, R182, R183, R184, R153). Taken with the command state IDLE it
makes it BUSY; with the bus BUSY the sequence waits and nothing else happens, and with the bus FREE the
clearing point is taken at once. Out of a warm reset a completion adds nothing. At the clearing point
table, queues, counts, holds, ports, windows, settings, scheduler, counters, snapshots and masks take
their reset values, and memory, ranks, device flags, index pointer, slave address, port-reset lines and
links are kept. At the clearing point and at each completion after it, with the bus FREE and no READY
rank OPEN, WARM_DONE is set, the command state returns to IDLE, and the next frame of each port begins a
new exchange (its marks: notes/assumptions/9.md). -/
def Obligations.WarmResetPhases : Prop :=
  ∀ s : State,
    let open_ (x : State) : Prop :=
      x.bus ≠ none ∨ ∃ r, (x.rank r).state = .ready ∧ (x.rank r).activity = .rowOpen
    let ends (x t : State) : Prop :=
      (open_ x → t = x) ∧
        (¬ open_ x →
          (∀ p, t.port p =
            { x.port p with
              freshLink := true
              receiving :=
                if (x.port p).receiving = some .overlapping then some .clean
                else (x.port p).receiving }) ∧
            t = { x with
                  warm := .idle, deviceFlags := x.deviceFlags ||| 0x40, ports := t.ports })
    (commandsTaken s →
      (s.bus ≠ none →
        exec .warmReset s = .next { s with warm := .waiting, indexPointer := 5 }) ∧
        (s.bus = none →
          exec .warmReset s =
            .next { warmStep { s with warm := .waiting } with indexPointer := 5 })) ∧
      (s.warm = .idle → warmStep s = s) ∧
      (s.warm = .closing → ends s (warmStep s)) ∧
      (s.warm = .waiting →
        ∃ x, ends x (warmStep s) ∧
          (∀ p, x.port p =
            { idlePort with
              resetLine := (s.port p).resetLine, receiving := (s.port p).receiving
              answers := (s.port p).answers, freshLink := (s.port p).freshLink }) ∧
          (∀ w, x.window w =
            { active := offRecord, staging := offRecord, staged := false }) ∧
          (∀ c, (∀ r, c ≠ .row r) → counterValue x c = 0) ∧ (∀ c, snapshotValue x c = 0) ∧
          x = { s with
                warm := .closing, table := [], ports := x.ports, windows := x.windows
                sched :=
                  { pointer := 0, streakPort := none, streakCount := 0, refreshPaused := false }
                settings :=
                  { discard := 16, holdTime := 20, interval := 78, threshold := 6
                    streakLimit := 4, pagePolicy := .leaveOpen, pullIn := true }
                counters := x.counters, snapshots := x.snapshots
                rowSnapshots := x.rowSnapshots, deviceMask := 0xFF })

/-! ### The register file -/

/-- WINDOW_STAGING_WRITE and WINDOW_CONTROL_WRITE (R67, R68): a staging write puts its byte into the
staging copy, where reads find it, sets the staged flag even for the same value, and leaves the active
record; a control write stores the attributes in the staging copy, makes the copy active and clears the
flag, and a request after it is decoded by the new record. Both reach one window alone. The control byte
reads (R70, R172) the staging copy's attributes, the staged flag in bit 6, and in bit 7 the in-use flag,
set exactly while an entry, a queued PUT or an active hold carries the window's index. -/
def Obligations.WindowsAreStagedAndActivated : Prop :=
  ∀ (s : State) (w : WindowId) (f : StagingField) (v : Byte), s.powerOnAsserted = false →
    (∃ t, exec (.windowStagingWrite w f v) s = .next t ∧
      (t.window w).active = (s.window w).active ∧ (t.window w).staged = true ∧
      readRegister t (.staging w f) = v ∧
      (∀ g, g ≠ f → readRegister t (.staging w g) = readRegister s (.staging w g)) ∧
      (t.window w).staging.prefetchable = (s.window w).staging.prefetchable ∧
      (t.window w).staging.claimable = (s.window w).staging.claimable ∧
      t = { s with
            windows := s.windows.set w (t.window w)
            indexPointer := (Register.staging w f).index + 1 }) ∧
      (let x : WindowRecord :=
        { (s.window w).staging with prefetchable := v.getLsbD 0, claimable := v.getLsbD 1 }
      exec (.windowControlWrite w v) s =
        .next
          { s with
            windows := s.windows.set w { active := x, staging := x, staged := false }
            indexPointer := (Register.control w).index + 1 }) ∧
      (let control := readRegister s (.control w)
      control.getLsbD 0 = (s.window w).staging.prefetchable ∧
        control.getLsbD 1 = (s.window w).staging.claimable ∧
        (∀ i, 2 ≤ i → i ≤ 5 → control.getLsbD i = false) ∧
        control.getLsbD 6 = (s.window w).staged ∧
        (control.getLsbD 7 = true ↔
          (∃ e ∈ s.table, e.window = w) ∨
            (∃ p, ∃ q ∈ (s.port p).queue, q.window = w) ∨
            ∃ p h, (s.port p).hold = some h ∧ h.window = w))

/-- DEVICE_FLAGS_WRITE, DEVICE_FLAG_MASK_WRITE, EVENT_MASK_WRITE and INDEX_POINTER_SET (R166, R169, R173,
R177, R178): flags written with 1 are cleared and the others kept; the device mask stores all eight bits
and the alert line follows it; an event mask stores bits 0 to 4 of the byte and the attention line follows
it; the pointer takes the byte. Nothing else changes. -/
def Obligations.FlagAndMaskWrites : Prop :=
  ∀ (s : State) (p : Port) (v : Byte), s.powerOnAsserted = false →
    let masked : State := { s with deviceMask := v, indexPointer := 4 }
    let quieted : State :=
      { s.setPort p { s.port p with eventMask := v.setWidth 5 } with
        indexPointer := (Register.eventMask p).index + 1 }
    exec (.deviceFlagsWrite v) s =
        .next { s with deviceFlags := s.deviceFlags &&& ~~~v, indexPointer := 3 } ∧
      exec (.deviceFlagMaskWrite v) s = .next masked ∧
      (alert masked = true ↔ ∃ i < 8, s.deviceFlags.getLsbD i = true ∧ v.getLsbD i = true) ∧
      exec (.eventMaskWrite p v) s = .next quieted ∧
      (attention quieted p = true ↔
        ∃ i < 5, (s.port p).flags.getLsbD i = true ∧ v.getLsbD i = true) ∧
      exec (.indexPointerSet v) s = .next { s with indexPointer := v }

/-- REGISTER_WRITE (R14, R18, R78, R100, R107, R108, R110, R122, R170, R173): each setting stores the
written value adjusted into its range and reads it back; page policy and pull-in store bit 0; a write to
any other index with no row of its own is ignored; the index pointer advances in every case. -/
def Obligations.SettingsStoreAdjustedValues : Prop :=
  ∀ (s : State) (index v : Byte), s.powerOnAsserted = false → hasOwnWriteRow index = false →
    let within (lo hi : Nat) : Byte := BitVec.ofNat 8 (max lo (min hi v.toNat))
    let stored (settings : Settings) : State :=
      { s with settings := settings, indexPointer := index + 1 }
    ∃ t, exec (.registerWrite index v) s = .next t ∧
      (index = 0x06 → t = stored { s.settings with discard := within 1 255 }) ∧
      (index = 0x07 → t = stored { s.settings with holdTime := within 1 200 }) ∧
      (index = 0x08 → t = stored { s.settings with interval := within 10 159 }) ∧
      (index = 0x09 → t = stored { s.settings with threshold := within 1 8 }) ∧
      (index = 0x0A → t = stored { s.settings with streakLimit := within 0 15 }) ∧
      (index = 0x0B → t = stored
        { s.settings with pagePolicy := if v.getLsbD 0 then .close else .leaveOpen }) ∧
      (index = 0x0C → t = stored { s.settings with pullIn := v.getLsbD 0 }) ∧
      (∀ p : Port, index.toNat = 0x10 + p.val →
        t = { s.setPort p { s.port p with limit := within 2 10 } with
              indexPointer := index + 1 }) ∧
      (¬ (0x06 ≤ index.toNat ∧ index.toNat ≤ 0x0C) →
        ¬ (0x10 ≤ index.toNat ∧ index.toNat ≤ 0x13) →
        t = { s with indexPointer := index + 1 }) ∧
      (index = 0x06 → readIndex t index = within 1 255) ∧
      (index = 0x07 → readIndex t index = within 1 200) ∧
      (index = 0x08 → readIndex t index = within 10 159) ∧
      (index = 0x09 → readIndex t index = within 1 8) ∧
      (index = 0x0A → readIndex t index = within 0 15) ∧
      (index = 0x0B ∨ index = 0x0C → readIndex t index = v &&& 1) ∧
      (∀ p : Port, index.toNat = 0x10 + p.val → readIndex t index = within 2 10)

/-- COUNTER_LOW_BYTE_READ (R136, R169, R171): the read sends the low byte of the whole value and loads its
snapshot with it; the high byte then read is the snapshot's, and no later command but a read of the same
low byte, a clearing point or a power-on reset changes the snapshot, whatever the value itself does. The
byte sent stands in the model's own field i2cSent (notes/assumptions/11.md). -/
def Obligations.CounterReadsKeepASnapshot : Prop :=
  ∀ (s : State) (c : CounterId), s.powerOnAsserted = false →
    (∃ t, exec (.counterLowByteRead c) s = .next t ∧
      t.i2cSent = (counterValue s c).extractLsb' 0 8 ∧
      snapshotValue t c = counterValue s c ∧
      readRegister t (.counterHigh c) = (counterValue s c).extractLsb' 8 8 ∧
      (∀ d, counterValue t d = counterValue s d) ∧
      (∀ d, d ≠ c → snapshotValue t d = snapshotValue s d) ∧
      (∀ x, (∀ d, x ≠ .counterHigh d) → readRegister t x = readRegister s x) ∧
      t.indexPointer = (Register.counterHigh c).index ∧
      t.table = s.table ∧ t.ranks = s.ranks ∧ t.memory = s.memory) ∧
      ∀ (i : Instr) (t : State), exec i s = .next t → i ≠ .counterLowByteRead c →
        i ≠ .powerOnResetAssert → (∀ sel a b, i ≠ .powerOnResetRelease sel a b) →
        i ≠ .warmReset → (∀ k v, i = .registerWrite k v → hasOwnWriteRow k = false) →
        s.warm ≠ .waiting →
          snapshotValue t c = snapshotValue s c

/-! ### What every step keeps -/

/-- Every step keeps the memory in its canonical form, the settings, limits and counts in their ranges
(R14, R18, R78, R100, R106, R108, R122, R154), a warm reset that waits only for an operation in progress
(R181), and a clear staged flag only over equal records (R67). -/
def Obligations.StepKeepsMemoryRangesAndWindows : Prop :=
  ∀ s t : State, step s = .next t →
    (memoryLaw s → memoryLaw t) ∧ (rangeLaw s → rangeLaw t) ∧ (warmLaw s → warmLaw t) ∧
      (stagedLaw s → stagedLaw t)

/-- Every step keeps the law of the reserve (R15): at most 16 entries, no port above its limit of at most
10, and FREE entries enough for the shortfall of all four ports. -/
def Obligations.StepKeepsTheReserve : Prop :=
  ∀ s t : State, reserveLaw s → step s = .next t → reserveLaw t

/-- Every step keeps the law of the keys (R7): no two non-orphaned entries share port, kind and address,
and entry numbers stay distinct; and, with every leftover a READY FETCH (R11), a discard timer running in
every READY entry, and in no other (R18). -/
def Obligations.StepKeepsKeysAndDiscardTimers : Prop :=
  ∀ s t : State, step s = .next t →
    (keyLaw s → keyLaw t) ∧ (timerLaw s → leftoverLaw s → timerLaw t ∧ leftoverLaw t)

/-- Every step keeps the put queues at no more than 8 PUTs, as many as taken less written modulo 65536,
numbered in the order they were taken (R48, R50); and the law of the fence (R54): an entry with an
awaited fence is still QUEUED, so never issued, and the last PUT taken before it is still queued. -/
def Obligations.StepKeepsPutQueuesAndFences : Prop :=
  ∀ s t : State, step s = .next t → (queueLaw s → queueLaw t) ∧ (fenceLaw s → fenceLaw t)

/-- Every step keeps active holds apart, and each port at one CLAIM entry, no QUEUED one beside an active
hold, and, with no CLAIM ever ISSUED (R6), a READY one beside the hold granted from it when granted = yes,
and beside no hold when granted = no (R84). -/
def Obligations.StepKeepsHoldsAndClaims : Prop :=
  ∀ s t : State, step s = .next t →
    (holdsDisjoint s → holdsDisjoint t) ∧
      (claimLaw s → claimStateLaw s → claimLaw t ∧ claimStateLaw t)

/-- Every step keeps the law of exclusion (R85): no access of another port touches an active hold's span,
and no other port's queue holds a PUT over it. -/
def Obligations.StepKeepsExclusion : Prop :=
  ∀ s t : State, exclusionLaw s → step s = .next t → exclusionLaw t

/-- Every step keeps the law of the port states (R159): OFF and QUIET ports hold no entry, a FAULT port
none but orphans, and none of the three a hold. -/
def Obligations.StepKeepsPortStates : Prop :=
  ∀ s t : State, portStateLaw s → step s = .next t → portStateLaw t

/-- Every step keeps the refresh balance of a READY rank between −8 and +8 and that of any other at 0, and a
READY rank's refresh in progress finds it at −7 or above (R126); and the law of the open rows (R116,
R131): one operation at a time, a rank BUSY exactly while it is on that rank, an open row only in a READY
rank and none during a refresh. -/
def Obligations.StepKeepsBalancesAndOpenRows : Prop :=
  ∀ s t : State, step s = .next t → (balanceLaw s → balanceLaw t) ∧ (rowLaw s → rowLaw t)

/-- Every step keeps the law of coherence (R33, R62, R75): all work lies within the present memory, and the
words that a READY FETCH or a leftover holds are those the memory holds now, marks included. That
stored bytes last and that an unwritten byte reads the same each time are the model's choice
(notes/assumptions/3.md and 2.md); R62 speaks of writes alone. -/
def Obligations.StepKeepsCoherence : Prop :=
  ∀ s t : State, coherenceLaw s → step s = .next t → coherenceLaw t

/-- Every word delivered in a DATA answer is what the memory holds at that moment, and carries a poison
mark exactly when one of its bytes holds, with its parity bit, an even number of ones (R62, R137, R144,
R145). That stored bytes last and that an unwritten byte reads the same each time are the model's choice
(notes/assumptions/3.md and 2.md); R62 speaks of writes alone. -/
def Obligations.DeliveredWordsAreCurrent : Prop :=
  ∀ (s t : State) (p : Port) (tag : Byte) (addr : Addr) (len : Byte) (words : List ReadWord),
    coherenceLaw s → linkJudges s p → exec (.fetch p tag addr len) s = .next t →
    (t.port p).answers.getLast? = some (.data tag words) →
    words.length ≤ len.toNat ∧
      ∀ (j : Nat) (w : ReadWord), words[j]? = some w →
        (∀ i : Fin 8,
          w.bytes.get i = s.memory.read s.powerOns (addr.toNat + 8 * j + i.val)) ∧
          (w.poison = true ↔
            ∃ i : Fin 8, onesOf (w.bytes.get i).data (w.bytes.get i).parity % 2 = 0)

/-- No step stops: from a state whose work lies within the present memory, and whose leftovers are READY
FETCHes, every step answers a next state of that kind (R11, R33, R73, R75). -/
def Obligations.StepNeverStops : Prop :=
  ∀ s : State, fitLaw s → leftoverLaw s → ∃ t, step s = .next t ∧ fitLaw t ∧ leftoverLaw t
end

