-- ==== Sys2Proof/Laws/Memory.lean ====
section
/-! SUPPORT. The memory: every operation keeps its canonical form, a byte written is the byte read, and
a write leaves every other address as it was. -/

namespace Sys2Proof.Machine

/-! ### The canonical form -/

theorem Memory.wf_iff_pairwise (m : Memory) :
    m.wf = true ↔ m.Pairwise (fun x y => x.1 < y.1) := by
  induction m with
  | nil => simp [Memory.wf]
  | cons x rest ih =>
    cases rest with
    | nil => simp [Memory.wf]
    | cons y ys =>
      simp only [Memory.wf, Bool.and_eq_true, decide_eq_true_eq, ih]
      constructor
      · rintro ⟨hxy, hp⟩
        refine List.pairwise_cons.mpr ⟨?_, hp⟩
        intro z hz
        rcases List.mem_cons.mp hz with rfl | hz
        · exact hxy
        · exact hxy.trans (List.rel_of_pairwise_cons hp hz)
      · intro hp
        exact ⟨List.rel_of_pairwise_cons hp (List.mem_cons_self ..), hp.of_cons⟩

theorem Memory.mem_set {m : Memory} {a : Nat} {b : StoredByte} {x : Nat × StoredByte}
    (h : x ∈ m.set a b) : x = (a, b) ∨ x ∈ m := by
  induction m with
  | nil => simpa [Memory.set] using h
  | cons y rest ih =>
    unfold Memory.set at h
    split at h
    · simpa using h
    · split at h
      · rcases List.mem_cons.mp h with h | h
        · exact .inl h
        · exact .inr (List.mem_cons_of_mem _ h)
      · rcases List.mem_cons.mp h with h | h
        · exact .inr (h ▸ List.mem_cons_self ..)
        · exact (ih h).imp id (List.mem_cons_of_mem _)

/-- Writing a byte keeps the addresses strictly rising. -/
theorem Memory.set_pairwise (m : Memory) (a : Nat) (b : StoredByte)
    (h : m.Pairwise (fun x y => x.1 < y.1)) :
    (m.set a b).Pairwise (fun x y => x.1 < y.1) := by
  induction m with
  | nil => simp [Memory.set]
  | cons y rest ih =>
    have hy := List.pairwise_cons.mp h
    unfold Memory.set
    split
    next hlt =>
      refine List.pairwise_cons.mpr ⟨?_, h⟩
      intro z hz
      rcases List.mem_cons.mp hz with rfl | hz
      · exact hlt
      · exact hlt.trans (hy.1 z hz)
    next hlt =>
      split
      next heq =>
        subst heq
        exact List.pairwise_cons.mpr ⟨hy.1, hy.2⟩
      next hne =>
        refine List.pairwise_cons.mpr ⟨?_, ih hy.2⟩
        intro z hz
        rcases Memory.mem_set hz with rfl | hz
        · show y.1 < a; omega
        · exact hy.1 z hz

theorem Memory.set_wf (m : Memory) (a : Nat) (b : StoredByte) (h : m.wf = true) :
    (m.set a b).wf = true :=
  (Memory.wf_iff_pairwise _).mpr (Memory.set_pairwise m a b ((Memory.wf_iff_pairwise m).mp h))

theorem Memory.storeByte_wf (m : Memory) (a : Nat) (b : HeldByte) (h : m.wf = true) :
    (m.storeByte a b).wf = true := by
  unfold Memory.storeByte
  split
  · exact Memory.set_wf m a _ h
  · exact h

theorem Memory.storeBytes_wf (bs : List HeldByte) (m : Memory) (a : Nat) (h : m.wf = true) :
    (m.storeBytes a bs).wf = true := by
  induction bs generalizing m a with
  | nil => exact h
  | cons b bs ih => exact ih _ _ (Memory.storeByte_wf m a b h)

theorem Memory.storeWords_wf (m : Memory) (a : Nat) (ws : List HeldWord) (h : m.wf = true) :
    (m.storeWords a ws).wf = true :=
  Memory.storeBytes_wf _ m a h

/-- The memory after reset stands in its canonical form. -/
theorem State.reset_memory_wf : State.reset.memory.wf = true := rfl

/-! ### Read after write -/

theorem Memory.find_set_same (m : Memory) (a : Nat) (b : StoredByte) :
    (m.set a b).find a = some b := by
  induction m with
  | nil => simp [Memory.set, Memory.find]
  | cons y rest ih =>
    unfold Memory.set
    split
    next => simp [Memory.find]
    next =>
      split
      next => simp [Memory.find]
      next hne =>
        have hne' : y.1 ≠ a := fun h => hne h.symm
        simp [Memory.find, ih, hne']

theorem Memory.find_set_ne (m : Memory) {a x : Nat} (b : StoredByte) (h : x ≠ a) :
    (m.set a b).find x = m.find x := by
  have h' : a ≠ x := fun e => h e.symm
  induction m with
  | nil => simp [Memory.set, Memory.find, h']
  | cons y rest ih =>
    unfold Memory.set
    split
    next => simp [Memory.find, h']
    next =>
      split
      next heq =>
        subst heq
        simp [Memory.find, h']
      next => simp [Memory.find, ih]

@[simp] theorem Memory.read_set_same (m : Memory) (n a : Nat) (b : StoredByte) :
    (m.set a b).read n a = b := by
  simp [Memory.read, Memory.find_set_same]

theorem Memory.read_set_ne (m : Memory) (n : Nat) {a x : Nat} (b : StoredByte) (h : x ≠ a) :
    (m.set a b).read n x = m.read n x := by
  simp [Memory.read, Memory.find_set_ne m b h]

/-- A byte of a write is found when its mask is set. -/
theorem Memory.read_storeByte_same (m : Memory) (n a : Nat) (b : HeldByte) :
    (m.storeByte a b).read n a =
      if b.mask then { data := b.data, parity := b.parity } else m.read n a := by
  unfold Memory.storeByte
  split <;> simp_all

theorem Memory.read_storeByte_ne (m : Memory) (n : Nat) {a x : Nat} (b : HeldByte) (h : x ≠ a) :
    (m.storeByte a b).read n x = m.read n x := by
  unfold Memory.storeByte
  split
  · exact Memory.read_set_ne m n _ h
  · rfl

/-- An address below a write reads as before. -/
theorem Memory.read_storeBytes_below (bs : List HeldByte) (m : Memory) (n : Nat) {a x : Nat}
    (h : x < a) : (m.storeBytes a bs).read n x = m.read n x := by
  induction bs generalizing m a with
  | nil => rfl
  | cons b bs ih =>
    unfold Memory.storeBytes
    rw [ih _ (by omega), Memory.read_storeByte_ne m n b (by omega)]

/-- What an address at or above the base of a write reads as afterwards: the byte presented for it when
there is one whose mask is set, and what it read as before otherwise (R140). -/
theorem Memory.read_storeBytes (bs : List HeldByte) (m : Memory) (n a k : Nat) :
    (m.storeBytes a bs).read n (a + k) =
      match bs[k]? with
      | some b => if b.mask then { data := b.data, parity := b.parity } else m.read n (a + k)
      | none => m.read n (a + k) := by
  induction bs generalizing m a k with
  | nil => simp [Memory.storeBytes]
  | cons b bs ih =>
    unfold Memory.storeBytes
    cases k with
    | zero =>
      rw [Memory.read_storeBytes_below _ _ _ (by omega)]
      simp [Memory.read_storeByte_same]
    | succ k =>
      have := ih (m.storeByte a b) (a + 1) k
      rw [show a + 1 + k = a + (k + 1) by omega] at this
      rw [this, Memory.read_storeByte_ne m n b (by omega)]
      simp

theorem Oct.length_toList {α : Type} (w : Oct α) : w.toList.length = 8 := rfl

theorem Oct.getElem?_toList {α : Type} (w : Oct α) (i : Fin 8) : w.toList[i.val]? = some (w.get i) := by
  fin_cases i <;> rfl

/-- The byte of a list of words at a byte offset. -/
theorem getElem?_flatMap_toList {α : Type} (ws : List (Oct α)) (k : Nat) :
    (ws.flatMap Oct.toList)[k]? = (ws[k / 8]?).map fun w => w.get (Fin.ofNat 8 k) := by
  induction ws generalizing k with
  | nil => simp
  | cons w ws ih =>
    rw [List.flatMap_cons]
    by_cases h : k < 8
    · rw [List.getElem?_append_left (by simpa [Oct.length_toList] using h), Nat.div_eq_of_lt h]
      have := Oct.getElem?_toList w (Fin.ofNat 8 k)
      simpa [Fin.ofNat, Nat.mod_eq_of_lt h] using this
    · rw [List.getElem?_append_right (by simpa [Oct.length_toList] using Nat.le_of_not_lt h), ih,
        Oct.length_toList]
      have h1 : k / 8 = (k - 8) / 8 + 1 := by omega
      have h2 : Fin.ofNat 8 (k - 8) = Fin.ofNat 8 k := by
        apply Fin.ext; simp [Fin.ofNat]; omega
      rw [h1, h2]; simp

/-- What an address reads as after the words of a write: the byte presented for it when there is one
whose mask is set, and what it read as before otherwise (R140, R151). -/
theorem Memory.read_storeWords (m : Memory) (n a : Nat) (ws : List HeldWord) (k : Nat) :
    (m.storeWords a ws).read n (a + k) =
      match (ws[k / 8]?).map fun w => w.get (Fin.ofNat 8 k) with
      | some b => if b.mask then { data := b.data, parity := b.parity } else m.read n (a + k)
      | none => m.read n (a + k) := by
  unfold Memory.storeWords
  rw [Memory.read_storeBytes, getElem?_flatMap_toList]

theorem Memory.read_storeWords_below (m : Memory) (n : Nat) {a x : Nat} (ws : List HeldWord)
    (h : x < a) : (m.storeWords a ws).read n x = m.read n x :=
  Memory.read_storeBytes_below _ m n h

/-! ### Words read -/

@[simp] theorem Memory.readWord_get (m : Memory) (n a : Nat) (i : Fin 8) :
    (m.readWord n a).bytes.get i = m.read n (a + i.val) := by
  fin_cases i <;> rfl

theorem Memory.length_readWords (m : Memory) (p a n : Nat) : (m.readWords p a n).length = n := by
  simp [Memory.readWords]

theorem Memory.getElem?_readWords (m : Memory) (p a n j : Nat) :
    (m.readWords p a n)[j]? = if j < n then some (m.readWord p (a + 8 * j)) else none := by
  unfold Memory.readWords
  rw [List.getElem?_map]
  by_cases h : j < n <;> simp [h]

/-- A word is poisoned exactly when one of its bytes fails its parity check (R142). -/
theorem Memory.readWord_poison (m : Memory) (n a : Nat) :
    (m.readWord n a).poison = true ↔ ∃ i : Fin 8, ((m.readWord n a).bytes.get i).good = false := by
  simp only [Memory.readWord_get]
  simp only [Memory.readWord, Oct.toList, Oct.ofFn, List.any_cons, List.any_nil, Bool.or_false,
    Bool.or_eq_true, Bool.not_eq_true']
  constructor
  · rintro (h | h | h | h | h | h | h | h)
    exacts [⟨0, h⟩, ⟨1, h⟩, ⟨2, h⟩, ⟨3, h⟩, ⟨4, h⟩, ⟨5, h⟩, ⟨6, h⟩, ⟨7, h⟩]
  · rintro ⟨i, h⟩
    fin_cases i <;> simp_all

end Sys2Proof.Machine
end

