-- ==== Sys2Proof/Laws/State.lean ====
section
/-! SUPPORT. One lemma per field per update of the state, and what reading a port, a rank, a window or
an item of a small collection finds after an update. -/

namespace Sys2Proof

/-! ### The small collections -/

@[simp] theorem PerPort.get_set_same {α : Type} (q : PerPort α) (p : Port) (v : α) :
    (q.set p v).get p = v := by
  fin_cases p <;> rfl

theorem PerPort.get_set_ne {α : Type} (q : PerPort α) {p r : Port} (v : α) (h : r ≠ p) :
    (q.set p v).get r = q.get r := by
  fin_cases p <;> fin_cases r <;> first | rfl | exact absurd rfl h

theorem PerPort.get_set {α : Type} (q : PerPort α) (p r : Port) (v : α) :
    (q.set p v).get r = if r = p then v else q.get r := by
  by_cases h : r = p
  · subst h; simp
  · simp [h, PerPort.get_set_ne q v h]

@[simp] theorem PerPort.set_set {α : Type} (q : PerPort α) (p : Port) (v w : α) :
    (q.set p v).set p w = q.set p w := by
  fin_cases p <;> rfl

@[simp] theorem PerPort.set_get {α : Type} (q : PerPort α) (p : Port) : q.set p (q.get p) = q := by
  fin_cases p <;> rfl

@[simp] theorem PerPort.get_map {α β : Type} (q : PerPort α) (f : α → β) (p : Port) :
    (q.map f).get p = f (q.get p) := by
  fin_cases p <;> rfl

theorem PerPort.ext_get {α : Type} {q r : PerPort α} (h : ∀ p, q.get p = r.get p) : q = r := by
  have h0 := h 0; have h1 := h 1; have h2 := h 2; have h3 := h 3
  cases q; cases r; simp_all [PerPort.get]

@[simp] theorem PerRank.get_set_same {α : Type} (q : PerRank α) (r : RankId) (v : α) :
    (q.set r v).get r = v := by
  fin_cases r <;> rfl

theorem PerRank.get_set_ne {α : Type} (q : PerRank α) {r x : RankId} (v : α) (h : x ≠ r) :
    (q.set r v).get x = q.get x := by
  fin_cases r <;> fin_cases x <;> first | rfl | exact absurd rfl h

theorem PerRank.get_set {α : Type} (q : PerRank α) (r x : RankId) (v : α) :
    (q.set r v).get x = if x = r then v else q.get x := by
  by_cases h : x = r
  · subst h; simp
  · simp [h, PerRank.get_set_ne q v h]

@[simp] theorem PerRank.set_set {α : Type} (q : PerRank α) (r : RankId) (v w : α) :
    (q.set r v).set r w = q.set r w := by
  fin_cases r <;> rfl

@[simp] theorem PerRank.set_get {α : Type} (q : PerRank α) (r : RankId) : q.set r (q.get r) = q := by
  fin_cases r <;> rfl

@[simp] theorem Oct.get_set_same {α : Type} (q : Oct α) (i : Fin 8) (v : α) :
    (q.set i v).get i = v := by
  fin_cases i <;> rfl

theorem Oct.get_set_ne {α : Type} (q : Oct α) {i j : Fin 8} (v : α) (h : j ≠ i) :
    (q.set i v).get j = q.get j := by
  fin_cases i <;> fin_cases j <;> first | rfl | exact absurd rfl h

@[simp] theorem Oct.get_ofFn {α : Type} (f : Fin 8 → α) (i : Fin 8) : (Oct.ofFn f).get i = f i := by
  fin_cases i <;> rfl

@[simp] theorem Oct.get_all {α : Type} (v : α) (i : Fin 8) : (Oct.all v).get i = v :=
  Oct.get_ofFn _ i

end Sys2Proof

namespace Sys2Proof.Machine

/-! ### One port's unit replaced -/

@[simp] theorem State.setPort_pending (s : State) (p : Port) (u : PortUnit) :
    (s.setPort p u).pending = s.pending := rfl

@[simp] theorem State.setPort_powerOnAsserted (s : State) (p : Port) (u : PortUnit) :
    (s.setPort p u).powerOnAsserted = s.powerOnAsserted := rfl

@[simp] theorem State.setPort_powerOns (s : State) (p : Port) (u : PortUnit) :
    (s.setPort p u).powerOns = s.powerOns := rfl

@[simp] theorem State.setPort_warm (s : State) (p : Port) (u : PortUnit) :
    (s.setPort p u).warm = s.warm := rfl

@[simp] theorem State.setPort_table (s : State) (p : Port) (u : PortUnit) :
    (s.setPort p u).table = s.table := rfl

@[simp] theorem State.setPort_ports (s : State) (p : Port) (u : PortUnit) :
    (s.setPort p u).ports = s.ports.set p u := rfl

@[simp] theorem State.setPort_windows (s : State) (p : Port) (u : PortUnit) :
    (s.setPort p u).windows = s.windows := rfl

@[simp] theorem State.setPort_ranks (s : State) (p : Port) (u : PortUnit) :
    (s.setPort p u).ranks = s.ranks := rfl

@[simp] theorem State.setPort_bus (s : State) (p : Port) (u : PortUnit) :
    (s.setPort p u).bus = s.bus := rfl

@[simp] theorem State.setPort_sched (s : State) (p : Port) (u : PortUnit) :
    (s.setPort p u).sched = s.sched := rfl

@[simp] theorem State.setPort_settings (s : State) (p : Port) (u : PortUnit) :
    (s.setPort p u).settings = s.settings := rfl

@[simp] theorem State.setPort_counters (s : State) (p : Port) (u : PortUnit) :
    (s.setPort p u).counters = s.counters := rfl

@[simp] theorem State.setPort_snapshots (s : State) (p : Port) (u : PortUnit) :
    (s.setPort p u).snapshots = s.snapshots := rfl

@[simp] theorem State.setPort_rowSnapshots (s : State) (p : Port) (u : PortUnit) :
    (s.setPort p u).rowSnapshots = s.rowSnapshots := rfl

@[simp] theorem State.setPort_deviceFlags (s : State) (p : Port) (u : PortUnit) :
    (s.setPort p u).deviceFlags = s.deviceFlags := rfl

@[simp] theorem State.setPort_deviceMask (s : State) (p : Port) (u : PortUnit) :
    (s.setPort p u).deviceMask = s.deviceMask := rfl

@[simp] theorem State.setPort_indexPointer (s : State) (p : Port) (u : PortUnit) :
    (s.setPort p u).indexPointer = s.indexPointer := rfl

@[simp] theorem State.setPort_i2cSent (s : State) (p : Port) (u : PortUnit) :
    (s.setPort p u).i2cSent = s.i2cSent := rfl

@[simp] theorem State.setPort_slaveAddress (s : State) (p : Port) (u : PortUnit) :
    (s.setPort p u).slaveAddress = s.slaveAddress := rfl

@[simp] theorem State.setPort_memory (s : State) (p : Port) (u : PortUnit) :
    (s.setPort p u).memory = s.memory := rfl

@[simp] theorem State.setPort_port_same (s : State) (p : Port) (u : PortUnit) :
    (s.setPort p u).port p = u :=
  PerPort.get_set_same _ _ _

theorem State.setPort_port_ne (s : State) {p q : Port} (u : PortUnit) (h : q ≠ p) :
    (s.setPort p u).port q = s.port q :=
  PerPort.get_set_ne _ _ h

theorem State.setPort_port (s : State) (p q : Port) (u : PortUnit) :
    (s.setPort p u).port q = if q = p then u else s.port q :=
  PerPort.get_set _ _ _ _

@[simp] theorem State.setPort_setPort (s : State) (p : Port) (u v : PortUnit) :
    (s.setPort p u).setPort p v = s.setPort p v := by
  simp [State.setPort]

@[simp] theorem State.setPort_self (s : State) (p : Port) : s.setPort p (s.port p) = s := by
  simp [State.setPort, State.port]

@[simp] theorem State.setPort_rank (s : State) (p : Port) (u : PortUnit) (r : RankId) :
    (s.setPort p u).rank r = s.rank r := rfl

@[simp] theorem State.setPort_window (s : State) (p : Port) (u : PortUnit) (w : WindowId) :
    (s.setPort p u).window w = s.window w := rfl

/-! ### One rank's control replaced -/

@[simp] theorem State.setRank_pending (s : State) (r : RankId) (c : RankControl) :
    (s.setRank r c).pending = s.pending := rfl

@[simp] theorem State.setRank_powerOnAsserted (s : State) (r : RankId) (c : RankControl) :
    (s.setRank r c).powerOnAsserted = s.powerOnAsserted := rfl

@[simp] theorem State.setRank_powerOns (s : State) (r : RankId) (c : RankControl) :
    (s.setRank r c).powerOns = s.powerOns := rfl

@[simp] theorem State.setRank_warm (s : State) (r : RankId) (c : RankControl) :
    (s.setRank r c).warm = s.warm := rfl

@[simp] theorem State.setRank_table (s : State) (r : RankId) (c : RankControl) :
    (s.setRank r c).table = s.table := rfl

@[simp] theorem State.setRank_ports (s : State) (r : RankId) (c : RankControl) :
    (s.setRank r c).ports = s.ports := rfl

@[simp] theorem State.setRank_windows (s : State) (r : RankId) (c : RankControl) :
    (s.setRank r c).windows = s.windows := rfl

@[simp] theorem State.setRank_ranks (s : State) (r : RankId) (c : RankControl) :
    (s.setRank r c).ranks = s.ranks.set r c := rfl

@[simp] theorem State.setRank_bus (s : State) (r : RankId) (c : RankControl) :
    (s.setRank r c).bus = s.bus := rfl

@[simp] theorem State.setRank_sched (s : State) (r : RankId) (c : RankControl) :
    (s.setRank r c).sched = s.sched := rfl

@[simp] theorem State.setRank_settings (s : State) (r : RankId) (c : RankControl) :
    (s.setRank r c).settings = s.settings := rfl

@[simp] theorem State.setRank_counters (s : State) (r : RankId) (c : RankControl) :
    (s.setRank r c).counters = s.counters := rfl

@[simp] theorem State.setRank_snapshots (s : State) (r : RankId) (c : RankControl) :
    (s.setRank r c).snapshots = s.snapshots := rfl

@[simp] theorem State.setRank_rowSnapshots (s : State) (r : RankId) (c : RankControl) :
    (s.setRank r c).rowSnapshots = s.rowSnapshots := rfl

@[simp] theorem State.setRank_deviceFlags (s : State) (r : RankId) (c : RankControl) :
    (s.setRank r c).deviceFlags = s.deviceFlags := rfl

@[simp] theorem State.setRank_deviceMask (s : State) (r : RankId) (c : RankControl) :
    (s.setRank r c).deviceMask = s.deviceMask := rfl

@[simp] theorem State.setRank_indexPointer (s : State) (r : RankId) (c : RankControl) :
    (s.setRank r c).indexPointer = s.indexPointer := rfl

@[simp] theorem State.setRank_i2cSent (s : State) (r : RankId) (c : RankControl) :
    (s.setRank r c).i2cSent = s.i2cSent := rfl

@[simp] theorem State.setRank_slaveAddress (s : State) (r : RankId) (c : RankControl) :
    (s.setRank r c).slaveAddress = s.slaveAddress := rfl

@[simp] theorem State.setRank_memory (s : State) (r : RankId) (c : RankControl) :
    (s.setRank r c).memory = s.memory := rfl

@[simp] theorem State.setRank_rank_same (s : State) (r : RankId) (c : RankControl) :
    (s.setRank r c).rank r = c :=
  PerRank.get_set_same _ _ _

theorem State.setRank_rank_ne (s : State) {r x : RankId} (c : RankControl) (h : x ≠ r) :
    (s.setRank r c).rank x = s.rank x :=
  PerRank.get_set_ne _ _ h

theorem State.setRank_rank (s : State) (r x : RankId) (c : RankControl) :
    (s.setRank r c).rank x = if x = r then c else s.rank x :=
  PerRank.get_set _ _ _ _

@[simp] theorem State.setRank_setRank (s : State) (r : RankId) (c d : RankControl) :
    (s.setRank r c).setRank r d = s.setRank r d := by
  simp [State.setRank]

@[simp] theorem State.setRank_port (s : State) (r : RankId) (c : RankControl) (p : Port) :
    (s.setRank r c).port p = s.port p := rfl

@[simp] theorem State.setRank_window (s : State) (r : RankId) (c : RankControl) (w : WindowId) :
    (s.setRank r c).window w = s.window w := rfl

/-! ### One window replaced -/

@[simp] theorem State.setWindow_pending (s : State) (w : WindowId) (v : Window) :
    (s.setWindow w v).pending = s.pending := rfl

@[simp] theorem State.setWindow_powerOnAsserted (s : State) (w : WindowId) (v : Window) :
    (s.setWindow w v).powerOnAsserted = s.powerOnAsserted := rfl

@[simp] theorem State.setWindow_powerOns (s : State) (w : WindowId) (v : Window) :
    (s.setWindow w v).powerOns = s.powerOns := rfl

@[simp] theorem State.setWindow_warm (s : State) (w : WindowId) (v : Window) :
    (s.setWindow w v).warm = s.warm := rfl

@[simp] theorem State.setWindow_table (s : State) (w : WindowId) (v : Window) :
    (s.setWindow w v).table = s.table := rfl

@[simp] theorem State.setWindow_ports (s : State) (w : WindowId) (v : Window) :
    (s.setWindow w v).ports = s.ports := rfl

@[simp] theorem State.setWindow_windows (s : State) (w : WindowId) (v : Window) :
    (s.setWindow w v).windows = s.windows.set w v := rfl

@[simp] theorem State.setWindow_ranks (s : State) (w : WindowId) (v : Window) :
    (s.setWindow w v).ranks = s.ranks := rfl

@[simp] theorem State.setWindow_bus (s : State) (w : WindowId) (v : Window) :
    (s.setWindow w v).bus = s.bus := rfl

@[simp] theorem State.setWindow_sched (s : State) (w : WindowId) (v : Window) :
    (s.setWindow w v).sched = s.sched := rfl

@[simp] theorem State.setWindow_settings (s : State) (w : WindowId) (v : Window) :
    (s.setWindow w v).settings = s.settings := rfl

@[simp] theorem State.setWindow_counters (s : State) (w : WindowId) (v : Window) :
    (s.setWindow w v).counters = s.counters := rfl

@[simp] theorem State.setWindow_snapshots (s : State) (w : WindowId) (v : Window) :
    (s.setWindow w v).snapshots = s.snapshots := rfl

@[simp] theorem State.setWindow_rowSnapshots (s : State) (w : WindowId) (v : Window) :
    (s.setWindow w v).rowSnapshots = s.rowSnapshots := rfl

@[simp] theorem State.setWindow_deviceFlags (s : State) (w : WindowId) (v : Window) :
    (s.setWindow w v).deviceFlags = s.deviceFlags := rfl

@[simp] theorem State.setWindow_deviceMask (s : State) (w : WindowId) (v : Window) :
    (s.setWindow w v).deviceMask = s.deviceMask := rfl

@[simp] theorem State.setWindow_indexPointer (s : State) (w : WindowId) (v : Window) :
    (s.setWindow w v).indexPointer = s.indexPointer := rfl

@[simp] theorem State.setWindow_i2cSent (s : State) (w : WindowId) (v : Window) :
    (s.setWindow w v).i2cSent = s.i2cSent := rfl

@[simp] theorem State.setWindow_slaveAddress (s : State) (w : WindowId) (v : Window) :
    (s.setWindow w v).slaveAddress = s.slaveAddress := rfl

@[simp] theorem State.setWindow_memory (s : State) (w : WindowId) (v : Window) :
    (s.setWindow w v).memory = s.memory := rfl

@[simp] theorem State.setWindow_window_same (s : State) (w : WindowId) (v : Window) :
    (s.setWindow w v).window w = v :=
  Oct.get_set_same _ _ _

theorem State.setWindow_window_ne (s : State) {w x : WindowId} (v : Window) (h : x ≠ w) :
    (s.setWindow w v).window x = s.window x :=
  Oct.get_set_ne _ _ h

@[simp] theorem State.setWindow_port (s : State) (w : WindowId) (v : Window) (p : Port) :
    (s.setWindow w v).port p = s.port p := rfl

@[simp] theorem State.setWindow_rank (s : State) (w : WindowId) (v : Window) (r : RankId) :
    (s.setWindow w v).rank r = s.rank r := rfl

/-! ### A port, a rank or a window read after an update of other fields -/

@[simp] theorem State.ports_get (s : State) (p : Port) : s.ports.get p = s.port p := rfl

@[simp] theorem State.ranks_get (s : State) (r : RankId) : s.ranks.get r = s.rank r := rfl

@[simp] theorem State.windows_get (s : State) (w : WindowId) : s.windows.get w = s.window w := rfl

@[simp] theorem State.port_mk (a b c d e f g h i j k l m n o q r t u v) (p : Port) :
    (State.mk a b c d e f g h i j k l m n o q r t u v).port p = f.get p := rfl

@[simp] theorem State.rank_mk (a b c d e f g h i j k l m n o q r t u v) (p : RankId) :
    (State.mk a b c d e f g h i j k l m n o q r t u v).rank p = h.get p := rfl

@[simp] theorem State.window_mk (a b c d e f g h i j k l m n o q r t u v) (p : WindowId) :
    (State.mk a b c d e f g h i j k l m n o q r t u v).window p = g.get p := rfl

theorem State.port_congr {s t : State} (h : s.ports = t.ports) (p : Port) : s.port p = t.port p := by
  unfold State.port; rw [h]

theorem State.rank_congr {s t : State} (h : s.ranks = t.ranks) (r : RankId) :
    s.rank r = t.rank r := by
  unfold State.rank; rw [h]

theorem State.window_congr {s t : State} (h : s.windows = t.windows) (w : WindowId) :
    s.window w = t.window w := by
  unfold State.window; rw [h]

end Sys2Proof.Machine
end

