-- ==== Sys2Proof/Laws/Frame.lean ====
section
/-! SUPPORT. What the shared operations leave unchanged. The operations of the request side (table,
holds, ports, answers) change nothing but the table, the port units, the device's counters and the
device flags; `RequestSide` says so, and there is one lemma for each operation. -/

namespace Sys2Proof.Machine

/-- Only the table, the port units, the device's counters and the device flags differ. -/
def RequestSide (s t : State) : Prop :=
  t = { s with table := t.table, ports := t.ports, counters := t.counters,
               deviceFlags := t.deviceFlags }

namespace RequestSide

theorem refl (s : State) : RequestSide s s := rfl

theorem trans {s t u : State} (h : RequestSide s t) (k : RequestSide t u) : RequestSide s u := by
  unfold RequestSide at *
  rw [h] at k
  rw [k]

theorem mk' (s : State) (a : List Entry) (b : PerPort PortUnit) (c : DeviceCounters) (d : Byte) :
    RequestSide s { s with table := a, ports := b, counters := c, deviceFlags := d } := rfl

section fields
variable {s t : State} (h : RequestSide s t)
include h

theorem pending : t.pending = s.pending := by rw [h]
theorem powerOnAsserted : t.powerOnAsserted = s.powerOnAsserted := by rw [h]
theorem powerOns : t.powerOns = s.powerOns := by rw [h]
theorem warm : t.warm = s.warm := by rw [h]
theorem windows : t.windows = s.windows := by rw [h]
theorem ranks : t.ranks = s.ranks := by rw [h]
theorem bus : t.bus = s.bus := by rw [h]
theorem sched : t.sched = s.sched := by rw [h]
theorem settings : t.settings = s.settings := by rw [h]
theorem snapshots : t.snapshots = s.snapshots := by rw [h]
theorem rowSnapshots : t.rowSnapshots = s.rowSnapshots := by rw [h]
theorem deviceMask : t.deviceMask = s.deviceMask := by rw [h]
theorem indexPointer : t.indexPointer = s.indexPointer := by rw [h]
theorem i2cSent : t.i2cSent = s.i2cSent := by rw [h]
theorem slaveAddress : t.slaveAddress = s.slaveAddress := by rw [h]
theorem memory : t.memory = s.memory := by rw [h]
theorem rank (r : RankId) : t.rank r = s.rank r := State.rank_congr h.ranks r
theorem window (w : WindowId) : t.window w = s.window w := State.window_congr h.windows w

end fields

end RequestSide

open RequestSide

/-- When one port's unit alone differs, the state is the old one with that unit, the table, the
device's counters and the device flags replaced. -/
theorem RequestSide.eq_onePort {s t : State} (h : RequestSide s t) (p : Port)
    (hp : ∀ q, q ≠ p → t.port q = s.port q) :
    t = { s with table := t.table, counters := t.counters, deviceFlags := t.deviceFlags,
                 ports := s.ports.set p (t.port p) } := by
  have hports : t.ports = s.ports.set p (t.port p) := by
    apply PerPort.ext_get
    intro q
    by_cases hq : q = p
    · subst hq; simp
    · rw [PerPort.get_set_ne _ _ hq]; exact hp q hq
  unfold RequestSide at h
  rw [h] at hports ⊢
  simp only at hports ⊢
  rw [← hports]

/-! ### Single updates -/

theorem setPort_requestSide (s : State) (p : Port) (u : PortUnit) :
    RequestSide s (s.setPort p u) := rfl

theorem table_requestSide (s : State) (a : List Entry) : RequestSide s { s with table := a } := rfl

theorem countPort_requestSide (s : State) (p : Port) (k : PortCounter) (n : Nat) :
    RequestSide s (countPort s p k n) := rfl

theorem countDevice_requestSide (s : State) (k : DeviceCounter) (n : Nat) :
    RequestSide s (countDevice s k n) := rfl

theorem raiseEvent_requestSide (s : State) (p : Port) (k : EventKind) (a : Addr) (c : Cause) :
    RequestSide s (raiseEvent s p k a c) := rfl

theorem setDeviceFlag_requestSide (s : State) (b : Byte) : RequestSide s (setDeviceFlag s b) := rfl

theorem freeEntry_requestSide (s : State) (n : Slot) : RequestSide s (freeEntry s n) := rfl

theorem updateEntry_requestSide (s : State) (n : Slot) (f : Entry → Entry) :
    RequestSide s (updateEntry s n f) := rfl

theorem addEntry_requestSide (s : State) (e : Entry) : RequestSide s (addEntry s e) := rfl

theorem suppress_requestSide (s : State) (ws : List ReadWord) : RequestSide s (suppress s ws) := rfl

theorem dropEntry_requestSide (s : State) (e : Entry) : RequestSide s (dropEntry s e) := rfl

theorem reply_requestSide (s : State) (p : Port) (a : Answer) : RequestSide s (reply s p a) := rfl

theorem deny_requestSide (s : State) (p : Port) (tag : Byte) (a : Addr) (r : Reason) :
    RequestSide s (deny s p tag a r) := rfl

theorem passHeader_requestSide (s : State) (p : Port) : RequestSide s (passHeader s p) := rfl

theorem againFull_requestSide (s : State) (p : Port) (tag : Byte) :
    RequestSide s (againFull s p tag) := rfl

theorem clearEvents_requestSide (s : State) (p : Port) : RequestSide s (clearEvents s p) := rfl

theorem freeHold_requestSide (s : State) (p : Port) : RequestSide s (freeHold s p) := rfl

theorem withdrawClaim_requestSide (s : State) (p : Port) : RequestSide s (withdrawClaim s p) := rfl

theorem freeGrantedClaim_requestSide (s : State) (p : Port) :
    RequestSide s (freeGrantedClaim s p) := rfl

theorem raiseDiscard_requestSide (s : State) (e : Entry) : RequestSide s (raiseDiscard s e) := rfl

theorem coherenceSearch_requestSide (s : State) (ws : List Nat) :
    RequestSide s (coherenceSearch s ws) := rfl

theorem retireHead_requestSide (s : State) (p : Port) : RequestSide s (retireHead s p) := rfl

theorem enqueuePut_requestSide (s : State) (p : Port) (a : Addr) (n : Nat) (ws : List HeldWord)
    (w : WindowId) (x : Place) : RequestSide s (enqueuePut s p a n ws w x) := rfl

/-! ### Holds and drains -/

theorem grant_requestSide (s : State) (c : Entry) : RequestSide s (grant s c) := rfl

theorem grantIfPossible_requestSide (s : State) (c : Entry) :
    RequestSide s (grantIfPossible s c) := by
  unfold grantIfPossible
  split
  · exact grant_requestSide s c
  · exact refl s

theorem foldl_requestSide {α : Type} (f : State → α → State) (hf : ∀ s x, RequestSide s (f s x))
    (l : List α) (s : State) : RequestSide s (l.foldl f s) := by
  induction l generalizing s with
  | nil => exact refl s
  | cons x xs ih => exact (hf s x).trans (ih (f s x))

theorem evaluateGrants_requestSide (s : State) : RequestSide s (evaluateGrants s) :=
  foldl_requestSide _ grantIfPossible_requestSide _ s

theorem expireHold_requestSide (s : State) (p : Port) (c : Cause) :
    RequestSide s (expireHold s p c) := by
  unfold expireHold
  split
  · exact refl s
  · exact RequestSide.trans (by rfl) (evaluateGrants_requestSide _)

theorem releaseHold_requestSide (s : State) (p : Port) : RequestSide s (releaseHold s p) :=
  RequestSide.trans (by rfl) (evaluateGrants_requestSide _)

theorem settleDrain_requestSide (s : State) (p : Port) : RequestSide s (settleDrain s p) := by
  unfold settleDrain
  split
  · exact setPort_requestSide s p _
  · exact refl s

theorem settleDrains_requestSide (s : State) : RequestSide s (settleDrains s) :=
  foldl_requestSide _ settleDrain_requestSide _ s

theorem portCleanup_requestSide (s : State) (p : Port) : RequestSide s (portCleanup s p) :=
  RequestSide.trans (by rfl) (evaluateGrants_requestSide _)

theorem enterFault_requestSide (s : State) (p : Port) : RequestSide s (enterFault s p) :=
  (setPort_requestSide s p _).trans
    ((portCleanup_requestSide _ p).trans (setDeviceFlag_requestSide _ _))

theorem takeGarbled_requestSide (s : State) (p : Port) (tag : Byte) :
    RequestSide s (takeGarbled s p tag) := by
  unfold takeGarbled
  dsimp only
  split
  · rfl
  · split
    · rfl
    · exact (enterFault_requestSide s p).trans (reply_requestSide _ _ _)

/-! ### Requests -/

theorem makeRoom_requestSide {s t : State} {p : Port} {n : Slot} (h : makeRoom s p = some (t, n)) :
    RequestSide s t := by
  unfold makeRoom at h
  split at h
  · obtain ⟨m, -, h⟩ := Option.map_eq_some_iff.mp h
    cases h; exact refl s
  · obtain ⟨e, -, h⟩ := Option.map_eq_some_iff.mp h
    cases h; exact dropEntry_requestSide s e

theorem admit_requestSide (s : State) (p : Port) (tag : Byte) (make : State → Slot → Entry)
    (created : State → State) (hc : ∀ s, RequestSide s (created s)) :
    RequestSide s (admitRequest s p tag make created) := by
  unfold admitRequest
  split
  · exact againFull_requestSide s p tag
  · next t n h =>
    exact (makeRoom_requestSide h).trans
      ((addEntry_requestSide _ _).trans ((hc _).trans (reply_requestSide _ _ _)))

theorem noteHostParity_requestSide (s : State) (p : Port) (a : Addr) (ws : List HeldWord) :
    RequestSide s (noteHostParity s p a ws) := by
  unfold noteHostParity
  split
  · rfl
  · exact refl s

theorem deliver_requestSide (s : State) (p : Port) (tag : Byte) (a : Addr) (ws : List ReadWord) :
    RequestSide s (deliver s p tag a ws) := by
  unfold deliver
  dsimp only
  split <;> rfl

theorem keepRest_requestSide (s : State) (e : Entry) (n : Nat) : RequestSide s (keepRest s e n) := by
  unfold keepRest
  dsimp only
  split
  · rfl
  · split <;> rfl

theorem handOver_requestSide (s : State) (p : Port) (tag : Byte) (e : Entry) (n : Nat) :
    RequestSide s (handOver s p tag e n) :=
  (keepRest_requestSide s e n).trans
    ((deliver_requestSide _ _ _ _ _).trans (settleDrain_requestSide _ _))

theorem fetchMatched_requestSide (s : State) (p : Port) (tag : Byte) (a : Addr) (len : Byte)
    (e : Entry) : RequestSide s (fetchMatched s p tag a len e) := by
  unfold fetchMatched
  split
  · exact handOver_requestSide ..
  · split
    · rfl
    · split
      · exact handOver_requestSide ..
      · rfl

theorem putSyncMatched_requestSide (s : State) (p : Port) (tag : Byte) (a : Addr) (len : Byte)
    (d : List LinkWord) (e : Entry) : RequestSide s (putSyncMatched s p tag a len d e) := by
  unfold putSyncMatched
  split
  · rfl
  · split
    · exact (freeEntry_requestSide s _).trans
        ((settleDrain_requestSide _ _).trans (reply_requestSide _ _ _))
    · rfl

theorem claimMatched_requestSide (s : State) (p : Port) (tag : Byte) (a : Addr) (len : Byte)
    (e : Entry) : RequestSide s (claimMatched s p tag a len e) := by
  unfold claimMatched
  dsimp only
  split
  · rfl
  · split
    · have h := (freeEntry_requestSide s e.slot).trans (settleDrain_requestSide _ p)
      split
      · exact h.trans (reply_requestSide _ _ _)
      · exact h.trans (deny_requestSide _ _ _ _ _)
    · rfl

theorem fetchFresh_requestSide (s : State) (p : Port) (tag : Byte) (a : Addr) (len : Byte) :
    RequestSide s (fetchFresh s p tag a len) := by
  unfold fetchFresh
  split
  · rfl
  · exact admit_requestSide _ _ _ _ _ refl

theorem putSyncFresh_requestSide (s : State) (p : Port) (tag : Byte) (a : Addr) (len : Byte)
    (d : List LinkWord) : RequestSide s (putSyncFresh s p tag a len d) := by
  unfold putSyncFresh
  split
  · rfl
  · exact admit_requestSide _ _ _ _ _ fun s => noteHostParity_requestSide s _ _ _

theorem claimFresh_requestSide (s : State) (p : Port) (tag : Byte) (a : Addr) (len : Byte) :
    RequestSide s (claimFresh s p tag a len) := by
  unfold claimFresh
  split
  · rfl
  · split
    · rfl
    · exact admit_requestSide _ _ _ _ _ fun s =>
        (setPort_requestSide s p _).trans (evaluateGrants_requestSide _)

theorem putFresh_requestSide (s : State) (p : Port) (tag : Byte) (a : Addr) (len : Byte)
    (d : List LinkWord) : RequestSide s (putFresh s p tag a len d) := by
  unfold putFresh
  split
  · rfl
  · split
    · rfl
    · split
      · rfl
      · exact (enqueuePut_requestSide _ _ _ _ _ _ _).trans
          ((noteHostParity_requestSide _ _ _ _).trans (reply_requestSide _ _ _))

theorem decideDrop_requestSide (s : State) (p : Port) (tag : Byte) (a : Addr) :
    RequestSide s (decideDrop s p tag a) := by
  unfold decideDrop
  dsimp only
  split_ifs
  · exact (releaseHold_requestSide s p).trans
      ((settleDrain_requestSide _ _).trans (reply_requestSide _ _ _))
  · rfl
  · rfl

theorem judgeFetch_requestSide (p : Port) (tag : Byte) (a : Addr) (len : Byte) (s : State) :
    RequestSide s (judgeFetch p tag a len s) := by
  unfold judgeFetch
  dsimp only
  have h := passHeader_requestSide s p
  split
  · exact h.trans (deny_requestSide ..)
  · split
    · exact h.trans (deny_requestSide ..)
    · split
      · exact h.trans (fetchMatched_requestSide ..)
      · exact h.trans (reply_requestSide ..)
      · exact h.trans (fetchFresh_requestSide ..)

theorem judgePut_requestSide (p : Port) (tag : Byte) (a : Addr) (len : Byte) (d : List LinkWord)
    (s : State) : RequestSide s (judgePut p tag a len d s) := by
  unfold judgePut
  dsimp only
  have h := passHeader_requestSide s p
  split
  · exact h.trans (deny_requestSide ..)
  · split
    · exact h.trans (deny_requestSide ..)
    · exact h.trans (putFresh_requestSide ..)

theorem judgePutSync_requestSide (p : Port) (tag : Byte) (a : Addr) (len : Byte)
    (d : List LinkWord) (s : State) : RequestSide s (judgePutSync p tag a len d s) := by
  unfold judgePutSync
  dsimp only
  have h := passHeader_requestSide s p
  split
  · exact h.trans (deny_requestSide ..)
  · split
    · exact h.trans (deny_requestSide ..)
    · split
      · exact h.trans (putSyncMatched_requestSide ..)
      · exact h.trans (reply_requestSide ..)
      · exact h.trans (putSyncFresh_requestSide ..)

theorem judgeClaim_requestSide (p : Port) (tag : Byte) (a : Addr) (len : Byte) (s : State) :
    RequestSide s (judgeClaim p tag a len s) := by
  unfold judgeClaim
  dsimp only
  have h := passHeader_requestSide s p
  split
  · exact h.trans (deny_requestSide ..)
  · split
    · exact h.trans (deny_requestSide ..)
    · split
      · exact h.trans (claimMatched_requestSide ..)
      · exact h.trans (reply_requestSide ..)
      · exact h.trans (claimFresh_requestSide ..)

theorem judgeDrop_requestSide (p : Port) (tag : Byte) (a : Addr) (s : State) :
    RequestSide s (judgeDrop p tag a s) := by
  unfold judgeDrop
  dsimp only
  have h := passHeader_requestSide s p
  split
  · exact h.trans (deny_requestSide ..)
  · split
    · exact h.trans (deny_requestSide ..)
    · exact h.trans (decideDrop_requestSide ..)

theorem judgeStatus_requestSide (p : Port) (tag : Byte) (s : State) :
    RequestSide s (judgeStatus p tag s) := rfl

theorem judgeUnnamed_requestSide (p : Port) (tag : Byte) (a : Addr) (s : State) :
    RequestSide s (judgeUnnamed p tag a s) := by
  unfold judgeUnnamed
  dsimp only
  split <;> rfl

theorem endFrame_requestSide (s : State) (p : Port) (tag : Byte) (judge : State → State)
    (hj : RequestSide s (judge s)) : RequestSide s (endFrame s p tag judge) := by
  unfold endFrame
  split
  · rfl
  · rfl
  · exact takeGarbled_requestSide s p tag
  · exact hj

/-! ### Completions and expiries -/

theorem deliverRead_requestSide (s : State) (e : Entry) (ws : List ReadWord) :
    RequestSide s (deliverRead s e ws) := by
  unfold deliverRead
  split <;> rfl

theorem deliverWrite_requestSide (s : State) (e : Entry) : RequestSide s (deliverWrite s e) := by
  unfold deliverWrite
  split <;> rfl

theorem retireWrite_requestSide (s : State) (a : Access) : RequestSide s (retireWrite s a) := by
  unfold retireWrite
  split
  · rfl
  · split
    · exact deliverWrite_requestSide s _
    · exact refl s

theorem discardEntry_requestSide (s : State) (e : Entry) : RequestSide s (discardEntry s e) := by
  unfold discardEntry
  split
  · split <;> rfl
  · exact RequestSide.trans (by rfl) (evaluateGrants_requestSide _)
  · dsimp only
    split
    · exact RequestSide.trans (by rfl) (evaluateGrants_requestSide _)
    · rfl

theorem assertPortReset_requestSide (s : State) (p : Port) :
    RequestSide s (assertPortReset s p) := by
  unfold assertPortReset
  dsimp only
  split
  · rfl
  · exact (setPort_requestSide s p _).trans
      ((portCleanup_requestSide _ _).trans (settleDrain_requestSide _ _))

/-- Every request frame changes the request side alone. -/
theorem frame_requestSide {c : Instr} {s t : State}
    (hc : (∃ p tag a len, c = .fetch p tag a len) ∨ (∃ p tag a len d, c = .put p tag a len d) ∨
      (∃ p tag a len d, c = .putSync p tag a len d) ∨ (∃ p tag a len, c = .claim p tag a len) ∨
      (∃ p tag a len, c = .drop p tag a len) ∨ (∃ p tag a len, c = .status p tag a len) ∨
      (∃ p tag, c = .garbledFrame p tag) ∨
      (∃ p k tag a len, c = .unnamedKindFrame p k tag a len))
    (h : exec c s = .next t) : RequestSide s t := by
  rcases hc with ⟨p, tag, a, len, rfl⟩ | ⟨p, tag, a, len, d, rfl⟩ | ⟨p, tag, a, len, d, rfl⟩ |
    ⟨p, tag, a, len, rfl⟩ | ⟨p, tag, a, len, rfl⟩ | ⟨p, tag, a, len, rfl⟩ | ⟨p, tag, rfl⟩ |
    ⟨p, k, tag, a, len, rfl⟩ <;> cases h
  · exact endFrame_requestSide _ _ _ _ (judgeFetch_requestSide ..)
  · refine endFrame_requestSide _ _ _ _ ?_
    split
    · exact judgePut_requestSide ..
    · exact takeGarbled_requestSide ..
  · refine endFrame_requestSide _ _ _ _ ?_
    split
    · exact judgePutSync_requestSide ..
    · exact takeGarbled_requestSide ..
  · exact endFrame_requestSide _ _ _ _ (judgeClaim_requestSide ..)
  · exact endFrame_requestSide _ _ _ _ (judgeDrop_requestSide ..)
  · exact endFrame_requestSide _ _ _ _ (judgeStatus_requestSide ..)
  · exact endFrame_requestSide _ _ _ _ (takeGarbled_requestSide ..)
  · exact endFrame_requestSide _ _ _ _ (judgeUnnamed_requestSide ..)

end Sys2Proof.Machine
end

