-- ==== Sys2Proof/Laws/Operations.lean ====
section
/-! SUPPORT. What each shared operation does, said once: port operations as functions of the port unit
(Safety.lean), overlaps of ranges as a byte in common, and the tests of the request side as
propositions. -/

namespace Sys2Proof.Machine

/-! ### Port units -/

theorem reply_eq (s : State) (p : Port) (a : Answer) :
    reply s p a = s.setPort p ((s.port p).answered a) := by
  have h : (if (s.port p).receiving.isNone then [a] else (s.port p).answers ++ [a]) =
      (if (s.port p).receiving = none then [] else (s.port p).answers) ++ [a] := by
    cases (s.port p).receiving <;> simp
  simp only [reply, PortUnit.answered, h]

theorem raiseEvent_eq (s : State) (p : Port) (k : EventKind) (a : Addr) (c : Cause) :
    raiseEvent s p k a c = s.setPort p ((s.port p).raised k a c) := by
  have h : ((s.port p).flags != 0) = decide ((s.port p).flags ≠ 0) :=
    Bool.eq_iff_iff.mpr (by simp)
  simp only [raiseEvent, PortUnit.raised, h]

theorem countPort_eq (s : State) (p : Port) (k : PortCounter) (n : Nat) :
    countPort s p k n = s.setPort p ((s.port p).counted k n) := rfl

theorem passHeader_eq (s : State) (p : Port) :
    passHeader s p = s.setPort p (s.port p).headerPassed := rfl

theorem deny_eq (s : State) (p : Port) (tag : Byte) (a : Addr) (r : Reason) :
    deny s p tag a r =
      s.setPort p (((s.port p).raised .denied a (.deny r)).answered (.deny tag r)) := by
  simp [deny, reply_eq, raiseEvent_eq]

/-- A request refused after its header passed (R44). -/
theorem deny_passHeader (s : State) (p : Port) (tag : Byte) (a : Addr) (r : Reason) :
    deny (passHeader s p) p tag a r = s.setPort p ((s.port p).refused tag a r) := by
  simp [deny_eq, passHeader_eq, PortUnit.refused]

theorem againFull_eq (s : State) (p : Port) (tag : Byte) :
    againFull s p tag = s.setPort p (((s.port p).counted .full 1).answered (.again tag)) := by
  simp [againFull, reply_eq, countPort_eq]

theorem noteHostParity_eq (s : State) (p : Port) (a : Addr) (ws : List HeldWord) :
    noteHostParity s p a ws = s.setPort p ((s.port p).tookData a ws) := by
  unfold noteHostParity PortUnit.tookData
  split <;> simp [countPort_eq, raiseEvent_eq]

theorem markCount_eq_zero (ws : List ReadWord) :
    markCount ws = 0 ↔ (ws.all fun w => !w.poison) = true := by
  simp [markCount, List.countP_eq_zero]

theorem deliver_eq (s : State) (p : Port) (tag : Byte) (a : Addr) (ws : List ReadWord) :
    deliver s p tag a ws = s.setPort p (((s.port p).delivered a ws).answered (.data tag ws)) := by
  unfold deliver PortUnit.delivered
  by_cases h : markCount ws = 0
  · simp [h, (markCount_eq_zero ws).mp h, reply_eq]
  · have h' : ¬ (ws.all fun w => !w.poison) = true := fun x => h ((markCount_eq_zero ws).mpr x)
    simp only [h, h', if_false]
    simp [reply_eq, countPort_eq, raiseEvent_eq, markCount]

theorem suppress_eq (s : State) (ws : List ReadWord) :
    suppress s ws = { s with counters := s.counters.suppressed ws } := rfl

theorem DeviceCounters.suppressed_nil (c : DeviceCounters) : c.suppressed [] = c := by
  have h : min 65535 c.suppressedPoison.toNat = c.suppressedPoison.toNat := by
    have := c.suppressedPoison.isLt; omega
  cases c
  simp_all [DeviceCounters.suppressed]

/-! ### Drains (R158) -/

theorem drained_iff (s : State) (p : Port) :
    drained s p = true ↔
      (∀ e ∈ s.table, e.port ≠ p) ∧ (s.port p).queue = [] ∧ (s.port p).hold = none := by
  simp [drained, heldCount, List.countP_eq_zero, and_assoc]

/-- A drain test changes the port's state at most, and leaves it as `drainTested` says. -/
theorem settleDrain_eq (s : State) (p : Port) :
    settleDrain s p =
      s.setPort p { s.port p with mode := drainTested s p (s.port p).mode } := by
  unfold settleDrain drainTested
  by_cases h : (s.port p).mode = .draining ∧ drained s p = true
  · have h2 := (drained_iff s p).mp h.2
    rw [if_pos h, if_pos ⟨h.1, h2⟩]
  · have h2 : ¬ ((s.port p).mode = .draining ∧ (∀ e ∈ s.table, e.port ≠ p) ∧
        (s.port p).queue = [] ∧ (s.port p).hold = none) :=
      fun x => h ⟨x.1, (drained_iff s p).mpr x.2⟩
    rw [if_neg h, if_neg h2]
    exact (State.setPort_self s p).symm

theorem settleDrain_port_ne (s : State) {p q : Port} (h : q ≠ p) :
    (settleDrain s p).port q = s.port q := by
  rw [settleDrain_eq, State.setPort_port_ne _ _ h]

@[simp] theorem settleDrain_table (s : State) (p : Port) : (settleDrain s p).table = s.table := by
  rw [settleDrain_eq]; rfl

@[simp] theorem settleDrain_counters (s : State) (p : Port) :
    (settleDrain s p).counters = s.counters := by
  rw [settleDrain_eq]; rfl

@[simp] theorem settleDrain_deviceFlags (s : State) (p : Port) :
    (settleDrain s p).deviceFlags = s.deviceFlags := by
  rw [settleDrain_eq]; rfl

/-- Whether a drain is complete does not depend on the port's state. -/
theorem drainTested_congr {s t : State} {p : Port} (m : PortMode) (ht : t.table = s.table)
    (hq : (t.port p).queue = (s.port p).queue) (hh : (t.port p).hold = (s.port p).hold) :
    drainTested t p m = drainTested s p m := by
  simp [drainTested, ht, hq, hh]

/-- A drain test leaves its port as the test of the state after it says: the port's state itself is
not looked at. -/
theorem settleDrain_port (s : State) (p : Port) :
    (settleDrain s p).port p =
      { s.port p with mode := drainTested (settleDrain s p) p (s.port p).mode } := by
  have h : drainTested (settleDrain s p) p (s.port p).mode = drainTested s p (s.port p).mode := by
    rw [settleDrain_eq]
    exact drainTested_congr _ rfl (by simp) (by simp)
  rw [h, settleDrain_eq, State.setPort_port_same]

/-- A drain test is the port's unit replaced by itself after the test. -/
theorem settleDrain_eq_set (s : State) (p : Port) :
    settleDrain s p = { s with ports := s.ports.set p ((settleDrain s p).port p) } := by
  rw [settleDrain_eq, State.setPort_port_same]
  rfl

/-- The drain tests of all four ports together (R158). -/
theorem settleDrains_eq (s : State) :
    settleDrains s =
      { s with
        ports :=
          { p0 := { s.port 0 with mode := drainTested s 0 (s.port 0).mode }
            p1 := { s.port 1 with mode := drainTested s 1 (s.port 1).mode }
            p2 := { s.port 2 with mode := drainTested s 2 (s.port 2).mode }
            p3 := { s.port 3 with mode := drainTested s 3 (s.port 3).mode } } } := by
  unfold settleDrains allPorts
  simp only [List.foldl_cons, List.foldl_nil]
  obtain ⟨a, b, c, d, e, ports, g, h, i, j, k, l, m, n, o, q, r, t, u, v⟩ := s
  obtain ⟨p0, p1, p2, p3⟩ := ports
  simp [settleDrain_eq, drainTested, State.setPort, PerPort.set, PerPort.get]
  refine ⟨?_, ?_, ?_⟩ <;> congr

/-! ### Ranges -/

/-- Two ranges overlap when they have a byte in common. -/
theorem Span.overlaps_iff (a b : Span) : a.overlaps b = true ↔ a.meets b := by
  simp only [Span.overlaps, decide_eq_true_eq]
  simp only [Span.meets, Span.mem, Span.stop]
  constructor
  · intro h
    exact ⟨max a.base b.base, by omega, by omega⟩
  · rintro ⟨x, ⟨h1, h2⟩, h3, h4⟩
    omega

theorem Span.overlaps_comm (a b : Span) : a.overlaps b = b.overlaps a := by
  simp only [Span.overlaps, Nat.max_comm, Nat.min_comm]

theorem Span.meets_comm (a b : Span) : a.meets b ↔ b.meets a := by
  simp only [Span.meets, and_comm]

theorem Span.overlaps_eq_false_iff (a b : Span) : a.overlaps b = false ↔ ¬ a.meets b := by
  rw [← Span.overlaps_iff]; simp

/-- The overlap reaches outside a range when a common byte lies outside it. -/
theorem Span.overlapsOutside_iff (a b own : Span) :
    a.overlapsOutside b own = true ↔ ∃ x, a.mem x ∧ b.mem x ∧ ¬ own.mem x := by
  simp only [Span.overlapsOutside, Span.overlaps, Bool.and_eq_true, decide_eq_true_eq,
    Bool.not_eq_true', Bool.and_eq_false_iff, decide_eq_false_iff_not]
  simp only [Span.mem, Span.stop]
  constructor
  · rintro ⟨h, h2⟩
    rcases h2 with h2 | h2
    · exact ⟨max a.base b.base, by omega, by omega, by omega⟩
    · exact ⟨min (a.base + a.size) (b.base + b.size) - 1, by omega, by omega, by omega⟩
  · rintro ⟨x, ⟨h1, h2⟩, ⟨h3, h4⟩, h5⟩
    omega

theorem mem_allPorts (p : Port) : p ∈ allPorts := by
  fin_cases p <;> decide

theorem any_allPorts (f : Port → Bool) : allPorts.any f = true ↔ ∃ p, f p = true := by
  simp [List.any_eq_true, mem_allPorts]

theorem holdOverlaps_iff (s : State) (q : Port) (a : Span) :
    holdOverlaps s q a = true ↔ ∃ h, (s.port q).hold = some h ∧ h.span.meets a := by
  unfold holdOverlaps
  cases h : (s.port q).hold <;> simp [Span.overlaps_iff]

theorem foreignHoldOverlaps_iff (s : State) (p : Port) (a : Span) :
    foreignHoldOverlaps s p a = true ↔ foreignHoldMeets s p a := by
  simp only [foreignHoldOverlaps, any_allPorts, Bool.and_eq_true, bne_iff_ne, holdOverlaps_iff,
    foreignHoldMeets]
  constructor
  · rintro ⟨q, hq, h, hh⟩; exact ⟨q, h, hq, hh⟩
  · rintro ⟨q, h, hq, hh⟩; exact ⟨q, hq, h, hh⟩

/-- The pending-claim fence of a QUEUED CLAIM entry (R80, R188, R189). -/
theorem fencedBy_iff (s : State) (p : Port) (a : Span) {c : Entry} (hk : c.kind = .claim)
    (hq : c.state = .queued) : fencedBy s p a c = true ↔ fences s p a c := by
  unfold fencedBy fences
  cases h : (s.port p).hold with
  | none => simp [hk, hq, Span.overlaps_iff, Span.meets]
  | some x => simp [hk, hq, Span.overlapsOutside_iff]

/-- A PUT is held back by a foreign hold or a pending claim's fence (R41). -/
theorem putHeldBack_iff (s : State) (p : Port) (a : Span) :
    putHeldBack s p a = true ↔ foreignHoldMeets s p a ∨ ∃ c ∈ s.table, fences s p a c := by
  simp only [putHeldBack, Bool.or_eq_true, foreignHoldOverlaps_iff, List.any_eq_true, pendingClaims,
    List.mem_filter, Bool.and_eq_true, beq_iff_eq]
  refine or_congr_right ⟨?_, ?_⟩
  · rintro ⟨c, ⟨hc, hk, hq⟩, h⟩
    exact ⟨c, hc, (fencedBy_iff s p a hk hq).mp h⟩
  · rintro ⟨c, hc, h⟩
    exact ⟨c, ⟨hc, h.1, h.2.1⟩, (fencedBy_iff s p a h.1 h.2.1).mpr h⟩

/-- A CLAIM is grantable as R81 says. -/
theorem grantable_iff (s : State) (c : Entry) :
    grantable s c = true ↔
      (∀ q h, (s.port q).hold = some h → ¬ h.span.meets c.claimSpan) ∧
        (∀ e ∈ olderThan s c.slot, barsGrant c.port c.claimSpan e = false) ∧
        (∀ q, q ≠ c.port → ∀ w ∈ (s.port q).queue, ¬ w.span.meets c.claimSpan) ∧
        ∀ a, s.bus = some (.access a) → a.port ≠ c.port → ¬ a.span.meets c.claimSpan := by
  simp only [grantable, Bool.and_eq_true, Bool.not_eq_true', ← Bool.not_eq_true, mem_allPorts,
    true_imp_iff, holdOverlaps_iff, not_exists, not_and, and_assoc, foreignPutOver, List.any_eq_true, bne_iff_ne,
    Span.overlaps_iff]
  refine and_congr_right fun _ => and_congr_right fun _ => and_congr_right fun _ => ?_
  unfold foreignAccessOver
  cases h : s.bus with
  | none => simp
  | some b => cases b <;> simp [Span.overlaps_iff]

/-! ### The form step (R33) -/

theorem wordFormOk_iff (addr : Addr) (len : Byte) :
    wordFormOk addr len = true ↔
      ¬ (addr.toNat % 8 ≠ 0 ∨ len.toNat = 0 ∨ 16 < len.toNat ∨
        16 < addr.toNat % 128 / 8 + len.toNat) := by
  simp only [wordFormOk, Bool.and_eq_true, decide_eq_true_eq]
  omega

theorem claimFormOk_iff (addr : Addr) (len : Byte) :
    claimFormOk addr len = true ↔
      ¬ (addr.toNat % 64 ≠ 0 ∨ len.toNat = 0 ∨ 64 < len.toNat ∨
        64 < addr.toNat % 4096 / 64 + len.toNat) := by
  simp only [claimFormOk, Bool.and_eq_true, decide_eq_true_eq]
  omega

theorem refusesAll_iff (s : State) (p : Port) :
    refusesAll s p = true ↔ (s.port p).mode = .off ∨ (s.port p).mode = .fault := by
  simp [refusesAll]

/-! ### The link -/

/-- A frame that the link judges is decided by its kind (R29). -/
theorem endFrame_judged {s : State} {p : Port} (h : linkJudges s p) (tag : Byte)
    (judge : State → State) : endFrame s p tag judge = judge s := by
  obtain ⟨h1, h2, h3, h4⟩ := h
  have : taking s p = .judged := by
    rcases h4 with h4 | h4 <;> simp [taking, h1, h2, h3, h4]
  simp [endFrame, this]

/-! ### Parity (R137, R138) -/

/-- A byte passes its parity check when it and its parity bit together hold an odd number of ones. -/
theorem parityGood_iff (data : Byte) (parity : Bool) :
    parityGood data parity = true ↔ onesOf data parity % 2 = 1 := by
  revert parity; revert data; decide

theorem parityGood_eq_false_iff (data : Byte) (parity : Bool) :
    parityGood data parity = false ↔ onesOf data parity % 2 = 0 := by
  rw [← Bool.not_eq_true, parityGood_iff]
  omega

theorem StoredByte.good_eq_false_iff (b : StoredByte) :
    b.good = false ↔ onesOf b.data b.parity % 2 = 0 :=
  parityGood_eq_false_iff _ _

/-- Write data are held as they arrived, with the bytes to be written that fail their check marked. -/
theorem heldWordsOf_eq (data : List LinkWord) : heldWordsOf data = heldAsArrived data := by
  have h : heldByteOf = fun b => { data := b.data, parity := b.parity, mask := b.mask
                                   mark := b.mask && decide (onesOf b.data b.parity % 2 = 0) } := by
    funext b
    have : (!parityGood b.data b.parity) = decide (onesOf b.data b.parity % 2 = 0) := by
      rw [Bool.eq_iff_iff, decide_eq_true_iff, Bool.not_eq_true', parityGood_eq_false_iff]
    rw [heldByteOf, this]
  simp only [heldWordsOf, heldAsArrived, h]

/-! ### The request table -/

/-- The held count of a port (R14). -/
theorem heldCount_eq (s : State) (p : Port) :
    heldCount s p = (s.table.filter fun e => decide (e.port = p)).length := by
  simp only [heldCount, List.countP_eq_length_filter, beq_eq_decide]

/-- A new request is admitted exactly as the reserve and limit allow (R14, R15). -/
theorem admits_iff (s : State) (p : Port) : admits s p = true ↔ reserveAllows s p := by
  unfold admits
  rw [Bool.and_eq_true, decide_eq_true_iff, decide_eq_true_iff]
  simp only [reserveAllows, limitInEffect, shortfallOfOthers, ← heldCount_eq, bne, beq_eq_decide,
    decide_not]
  rfl

theorem admits_eq_false_iff (s : State) (p : Port) : admits s p = false ↔ ¬ reserveAllows s p := by
  rw [← admits_iff, Bool.not_eq_true]

theorem freeEntry_table (s : State) (n : Slot) :
    (freeEntry s n).table = s.table.filter fun x => decide (x.slot ≠ n) := by
  unfold freeEntry
  dsimp only
  congr 1
  funext e
  exact Bool.eq_iff_iff.mpr (by simp)

theorem slotsDistinct_eq {s : State} (h : slotsDistinct s) {e f : Entry} (he : e ∈ s.table)
    (hf : f ∈ s.table) (hs : e.slot = f.slot) : e = f :=
  List.inj_on_of_nodup_map h he hf hs

/-- The entry that a number names (R1). -/
theorem entryAt_eq_some {s : State} (h : slotsDistinct s) {e : Entry} (he : e ∈ s.table) :
    entryAt s e.slot = some e := by
  unfold entryAt
  cases hf : s.table.find? (fun x => x.slot == e.slot) with
  | none =>
    have := List.find?_eq_none.mp hf e he
    simp at this
  | some f =>
    have h1 := List.find?_some hf
    have h2 := List.mem_of_find?_eq_some hf
    rw [slotsDistinct_eq h h2 he (by simpa using h1)]

/-- The lowest-numbered FREE entry (R1). -/
theorem lowestFree_eq_some {s : State} {n : Slot} (hn : ∀ e ∈ s.table, e.slot ≠ n)
    (hm : ∀ m, m < n → ∃ e ∈ s.table, e.slot = m) : lowestFree s = some n := by
  unfold lowestFree
  rw [List.find?_eq_some_iff_getElem]
  refine ⟨by simpa using hn, n.val, by simp, by simp, ?_⟩
  intro j hj
  obtain ⟨e, he, hs⟩ := hm ⟨j, by omega⟩ (by simpa [Fin.lt_def] using hj)
  simpa using ⟨e, he, by simpa using hs⟩

/-- A request that matches nothing (R8, R9). -/
theorem matchKey_fresh {s : State} {p : Port} {k : EntryKind} {addr : Addr}
    (h : ∀ e ∈ s.table, ¬ e.hasKey p k addr) : matchKey s p k addr = .fresh := by
  unfold matchKey
  have h1 : s.table.find? (fun e => e.port == p && e.kind == k && e.addr == addr && !e.orphan) =
      none := by
    rw [List.find?_eq_none]
    intro e he
    have := h e he
    simp only [Entry.hasKey, not_and] at this
    simp only [Bool.and_eq_true, beq_iff_eq, Bool.not_eq_true', not_and, Bool.not_eq_false, and_imp]
    intro a b c
    exact absurd c (this a b)
  have h2 : s.table.any (fun e => e.port == p && e.kind == k && e.addr == addr) = false := by
    rw [List.any_eq_false]
    intro e he
    have := h e he
    simpa [Entry.hasKey, and_assoc] using this
  simp only [h1, h2]
  rfl

/-- A request that matches its entry (R7, R8). -/
theorem matchKey_entry {s : State} (hk : keyLaw s) {p : Port} {k : EntryKind} {addr : Addr}
    {e : Entry} (he : e ∈ s.table) (hkey : e.hasKey p k addr) (ho : e.orphan = false) :
    matchKey s p k addr = .entry e := by
  unfold matchKey
  obtain ⟨h1, h2, h3⟩ := hkey
  cases hf : s.table.find? (fun e => e.port == p && e.kind == k && e.addr == addr && !e.orphan) with
  | none =>
    have := List.find?_eq_none.mp hf e he
    simp [h1, h2, h3, ho] at this
  | some f =>
    have hb := List.find?_some hf
    have hm := List.mem_of_find?_eq_some hf
    simp only [Bool.and_eq_true, beq_iff_eq, Bool.not_eq_true'] at hb
    obtain ⟨⟨⟨ha, hb⟩, hc⟩, hd⟩ := hb
    have := hk.2 f hm e he hd ho (by rw [ha, h1]) (by rw [hb, h2]) (by rw [hc, h3])
    rw [slotsDistinct_eq hk.1 hm he this] at hf
    simp only [hf]

/-- A request whose key only orphans have (R9). -/
theorem matchKey_orphan {s : State} {p : Port} {k : EntryKind} {addr : Addr} {e : Entry}
    (he : e ∈ s.table) (hkey : e.hasKey p k addr)
    (ho : ∀ f ∈ s.table, f.hasKey p k addr → f.orphan = true) : matchKey s p k addr = .orphan := by
  unfold matchKey
  have h1 : s.table.find? (fun e => e.port == p && e.kind == k && e.addr == addr && !e.orphan) =
      none := by
    rw [List.find?_eq_none]
    intro f hf
    have := ho f hf
    simp only [Entry.hasKey, and_imp] at this
    simp only [Bool.and_eq_true, beq_iff_eq, Bool.not_eq_true', not_and, Bool.not_eq_false, and_imp]
    exact this
  have h2 : s.table.any (fun e => e.port == p && e.kind == k && e.addr == addr) = true := by
    rw [List.any_eq_true]
    obtain ⟨a, b, c⟩ := hkey
    exact ⟨e, he, by simp [a, b, c]⟩
  simp only [h1, h2]
  rfl

/-- Another FETCH entry of the port holds the address (R7, R11). -/
theorem fetchKeyHeld_iff (s : State) (p : Port) (addr : Addr) :
    fetchKeyHeld s p addr = true ↔ ∃ f ∈ s.table, f.hasKey p .fetch addr ∧ f.orphan = false := by
  simp [fetchKeyHeld, Entry.hasKey, and_assoc]

/-- The room a new request finds under the reserve and limit (R1, R15). -/
theorem makeRoom_admitted {s : State} {p : Port} {n : Slot} (ha : admits s p = true)
    (hn : ∀ e ∈ s.table, e.slot ≠ n) (hm : ∀ m, m < n → ∃ e ∈ s.table, e.slot = m) :
    makeRoom s p = some (s, n) := by
  simp [makeRoom, ha, lowestFree_eq_some hn hm]

/-- No room, and no leftover of the port to reclaim (R16, R43). -/
theorem makeRoom_none {s : State} {p : Port} (ha : admits s p = false)
    (hl : ∀ e ∈ s.table, e.port = p → e.leftover = false) : makeRoom s p = none := by
  have : oldestLeftover s p = none := by
    unfold oldestLeftover
    rw [List.find?_eq_none]
    intro e he
    have := hl e he
    by_cases h : e.port = p <;> simp_all
  simp [makeRoom, ha, this]

/-- The room that the port's oldest leftover gives up (R16). -/
theorem makeRoom_reclaims {s : State} {p : Port} {older younger : List Entry} {e : Entry}
    (ha : admits s p = false) (ht : s.table = older ++ e :: younger) (hp : e.port = p)
    (hl : e.leftover = true) (ho : ∀ x ∈ older, x.port = p → x.leftover = false) :
    makeRoom s p = some (dropEntry s e, e.slot) := by
  have : oldestLeftover s p = some e := by
    unfold oldestLeftover
    rw [ht, List.find?_append, List.find?_eq_none.mpr]
    · simp [hp, hl]
    · intro x hx
      have := ho x hx
      by_cases h : x.port = p <;> simp_all
  simp [makeRoom, ha, this]

/-! ### Memory and windows -/

theorem placeOf_eq_none (s : State) (addr : Addr) :
    placeOf s addr = none ↔ totalCapacity s ≤ addr.toNat := by
  have : capacityOf (s.rank 0).presence ≤ totalCapacity s := by simp [totalCapacity]
  unfold placeOf
  dsimp only
  split_ifs with h1 h2
  · simp; omega
  · simp; omega
  · simp; omega

/-- What passes steps 7 to 9 of the check order (R28). -/
theorem gate_pass {s : State} {p : Port} {k : Purpose} {addr : Addr} {w : WindowId} {place : Place}
    (hm : (s.port p).mode = .active) (hw : decodeWindow s p k addr = some w)
    (hp : placeOf s addr = some place) : gate s p k addr = .pass w place := by
  simp [gate, hm, hw, hp]

/-- A header that passes changes nothing that the map or the memory looks at. -/
@[simp] theorem decodeWindow_setPort (s : State) (p q : Port) (u : PortUnit) (k : Purpose)
    (addr : Addr) : decodeWindow (s.setPort q u) p k addr = decodeWindow s p k addr := rfl

@[simp] theorem placeOf_setPort (s : State) (q : Port) (u : PortUnit) (addr : Addr) :
    placeOf (s.setPort q u) addr = placeOf s addr := rfl

@[simp] theorem matchKey_setPort (s : State) (p q : Port) (u : PortUnit) (k : EntryKind)
    (addr : Addr) : matchKey (s.setPort q u) p k addr = matchKey s p k addr := rfl

/-! ### After the header check -/

@[simp] theorem passHeader_port (s : State) (p : Port) :
    (passHeader s p).port p = (s.port p).headerPassed := by
  simp [passHeader_eq]

theorem passHeader_port_ne (s : State) {p q : Port} (h : q ≠ p) :
    (passHeader s p).port q = s.port q :=
  State.setPort_port_ne _ _ h

/-- Every field of every port but the garble count outlasts the header check. -/
theorem passHeader_field {α : Type} (s : State) (p q : Port) (f : PortUnit → α)
    (hf : ∀ u : PortUnit, f u.headerPassed = f u) :
    f ((passHeader s p).port q) = f (s.port q) := by
  by_cases h : q = p
  · subst h; rw [passHeader_port, hf]
  · rw [passHeader_port_ne s h]

@[simp] theorem passHeader_table (s : State) (p : Port) : (passHeader s p).table = s.table := rfl

theorem refusesAll_passHeader (s : State) (p : Port) :
    refusesAll (passHeader s p) p = refusesAll s p := by
  unfold refusesAll
  rw [passHeader_field s p p (·.mode) fun _ => rfl]

/-- A port that is neither OFF nor FAULT passes step 3 (R32). -/
theorem refusesAll_eq_false {s : State} {p : Port} (h : (s.port p).mode ≠ .off)
    (h' : (s.port p).mode ≠ .fault) : refusesAll (passHeader s p) p = false := by
  rw [refusesAll_passHeader, ← Bool.not_eq_true, refusesAll_iff]
  simp [h, h']

theorem admits_passHeader (s : State) (p q : Port) :
    admits (passHeader s p) q = admits s q := by
  have h : limitInEffect (passHeader s p) q = limitInEffect s q := by
    unfold limitInEffect
    rw [passHeader_field s p q (·.limit) fun _ => rfl]
    rfl
  unfold admits
  rw [h]
  rfl

theorem gate_passHeader (s : State) (p : Port) (k : Purpose) (addr : Addr) :
    gate (passHeader s p) p k addr = gate s p k addr := by
  unfold gate
  rw [passHeader_field s p p (·.mode) fun _ => rfl]
  rfl

theorem newEntry_passHeader (s : State) (n : Slot) (p : Port) (k : EntryKind) (a : Addr) (l : Nat)
    (x : Option Place) (w : WindowId) :
    newEntry (passHeader s p) n p k a l x w = newEntry s n p k a l x w := by
  simp only [newEntry, passHeader_port]
  rfl

theorem claimsAlready_iff (s : State) (p : Port) :
    claimsAlready s p = true ↔
      (s.port p).hold ≠ none ∨ ∃ e ∈ s.table, e.port = p ∧ e.kind = .claim := by
  simp [claimsAlready, Option.isSome_iff_ne_none]

/-! ### Agreement of write data (R8) -/

theorem byteAgrees_iff (h : HeldByte) (b : LinkByte) :
    byteAgrees h b = true ↔ h.mask = b.mask ∧ (b.mask = true → h.data = b.data) := by
  unfold byteAgrees
  cases hm : h.mask <;> cases hb : b.mask <;> simp

theorem wordAgrees_iff (h : HeldWord) (w : LinkWord) :
    wordAgrees h w = true ↔
      ∀ x : Fin 8, (h.get x).mask = (w.get x).mask ∧
        ((w.get x).mask = true → (h.get x).data = (w.get x).data) := by
  have key : wordAgrees h w = true ↔ ∀ x : Fin 8, byteAgrees (h.get x) (w.get x) = true := by
    simp only [wordAgrees, Oct.toList, List.zip_cons_cons, List.zip_nil_right, List.all_cons,
      List.all_nil, Bool.and_true, Bool.and_eq_true]
    constructor
    · rintro ⟨h0, h1, h2, h3, h4, h5, h6, h7⟩ x
      fin_cases x <;> assumption
    · intro k
      exact ⟨k 0, k 1, k 2, k 3, k 4, k 5, k 6, k 7⟩
  simp only [key, byteAgrees_iff]

theorem dataAgrees_iff (hs : List HeldWord) (ws : List LinkWord) :
    dataAgrees hs ws = true ↔
      hs.length = ws.length ∧ ∀ (j : Nat) (h : HeldWord) (w : LinkWord),
        hs[j]? = some h → ws[j]? = some w → ∀ x : Fin 8, (h.get x).mask = (w.get x).mask ∧
          ((w.get x).mask = true → (h.get x).data = (w.get x).data) := by
  simp only [dataAgrees, Bool.and_eq_true, beq_iff_eq, List.all_eq_true, wordAgrees_iff]
  refine and_congr_right fun _ => ⟨?_, ?_⟩
  · intro k j h w hh hw
    refine k (h, w) (List.mem_of_getElem? (i := j) ?_)
    rw [List.getElem?_zip_eq_some]
    exact ⟨hh, hw⟩
  · rintro k ⟨h, w⟩ hm
    obtain ⟨j, hj⟩ := List.mem_iff_getElem?.mp hm
    rw [List.getElem?_zip_eq_some] at hj
    exact k j h w hj.1 hj.2

end Sys2Proof.Machine
end

