-- ==== Sys2Proof/Laws/Bus.lean ====
section
/-! SUPPORT. What the completions on the memory bus read, find stale and mark, and what a warm reset
does at them. -/

namespace Sys2Proof.Machine

/-! ### Reads and writes -/

/-- The words a read finds: the bytes of the range, marked where one holds, with its parity bit, an even
number of ones (R137, R142). -/
theorem Memory.readWords_eq (m : Memory) (powerOns a n : Nat) :
    m.readWords powerOns a n = (List.range n).map fun i =>
      let bytes := Oct.ofFn fun j => m.read powerOns (a + 8 * i + j.val)
      { bytes := bytes
        poison := decide
          (∃ j : Fin 8, onesOf (bytes.get j).data (bytes.get j).parity % 2 = 0) : ReadWord } := by
  unfold Memory.readWords
  refine List.map_congr_left fun i _ => ?_
  simp only [← StoredByte.good_eq_false_iff]
  have h : (m.readWord powerOns (a + 8 * i)).poison =
      decide (∃ j : Fin 8,
        ((Oct.ofFn fun j => m.read powerOns (a + 8 * i + j.val)).get j).good = false) :=
    Bool.eq_iff_iff.mpr (by
      rw [decide_eq_true_iff]
      exact Memory.readWord_poison m powerOns (a + 8 * i))
  rw [← h]
  rfl

/-- A byte of the words carries a mark (R138). -/
theorem anyMarked_eq (words : List HeldWord) :
    anyMarked words = decide (∃ w ∈ words, ∃ i : Fin 8, (w.get i).mark = true) := by
  apply Bool.eq_iff_iff.mpr
  rw [decide_eq_true_iff]
  simp only [anyMarked, List.any_eq_true, Oct.toList]
  constructor
  · rintro ⟨w, hw, b, hb, hm⟩
    simp only [List.mem_cons, List.not_mem_nil, or_false] at hb
    rcases hb with rfl | rfl | rfl | rfl | rfl | rfl | rfl | rfl
    exacts [⟨w, hw, 0, hm⟩, ⟨w, hw, 1, hm⟩, ⟨w, hw, 2, hm⟩, ⟨w, hw, 3, hm⟩, ⟨w, hw, 4, hm⟩,
      ⟨w, hw, 5, hm⟩, ⟨w, hw, 6, hm⟩, ⟨w, hw, 7, hm⟩]
  · rintro ⟨w, hw, i, hm⟩
    refine ⟨w, hw, w.get i, ?_, hm⟩
    fin_cases i <;> simp [Oct.get]

/-- A word is written when one of its masks is set (R58). -/
theorem wordWritten_iff (w : HeldWord) :
    wordWritten w = true ↔ ∃ i : Fin 8, (w.get i).mask = true := by
  simp only [wordWritten, Oct.toList, List.any_cons, List.any_nil, Bool.or_false, Bool.or_eq_true]
  constructor
  · rintro (h | h | h | h | h | h | h | h)
    exacts [⟨0, h⟩, ⟨1, h⟩, ⟨2, h⟩, ⟨3, h⟩, ⟨4, h⟩, ⟨5, h⟩, ⟨6, h⟩, ⟨7, h⟩]
  · rintro ⟨i, h⟩
    fin_cases i <;> simp_all [Oct.get]

/-- The base addresses of the written words. -/
theorem mem_writtenWords (a : Nat) : ∀ (words : List HeldWord) (base : Nat),
    a ∈ writtenWords base words ↔
      ∃ j w, words[j]? = some w ∧ wordWritten w = true ∧ a = base + 8 * j
  | [], _ => by simp [writtenWords]
  | w :: ws, base => by
    have ih := mem_writtenWords a ws (base + 8)
    have tail : a ∈ writtenWords (base + 8) ws ↔
        ∃ j v, (w :: ws)[j + 1]? = some v ∧ wordWritten v = true ∧ a = base + 8 * (j + 1) := by
      rw [ih]
      constructor <;> rintro ⟨j, v, h1, h2, h3⟩ <;> exact ⟨j, v, by simpa using h1, h2, by omega⟩
    unfold writtenWords
    constructor
    · intro h
      split at h
      next hwr =>
        rcases List.mem_cons.mp h with rfl | h
        · exact ⟨0, w, rfl, hwr, by omega⟩
        · obtain ⟨j, v, hj⟩ := tail.mp h
          exact ⟨j + 1, v, hj⟩
      next =>
        obtain ⟨j, v, hj⟩ := tail.mp h
        exact ⟨j + 1, v, hj⟩
    · rintro ⟨j, v, h1, h2, h3⟩
      cases j with
      | zero =>
        cases Option.some.inj h1
        simp [h2, h3]
      | succ j =>
        have := tail.mpr ⟨j, v, h1, h2, h3⟩
        split
        · exact List.mem_cons_of_mem _ this
        · exact this

/-- The words an access for the entry covers: a FETCH with the prefetch flag is read to the end of its
128-byte block (R4). -/
theorem Entry.accessWords_eq (e : Entry) :
    e.accessWords =
      if e.kind = .fetch ∧ e.prefetch = true then (128 - e.addr.toNat % 128) / 8 else e.length := by
  simp [Entry.accessWords, wordsToBlockEnd]

/-- The words a READY FETCH holds: a leftover holds what is left of them (R59). -/
theorem Entry.heldWords_eq (e : Entry) :
    e.heldWords = if e.leftover = true then e.length else e.accessWords := rfl

/-- What the coherence search finds stale (R58, R59). -/
theorem madeStale_iff (base : Nat) (words : List HeldWord) (e : Entry) :
    madeStale (writtenWords base words) e = true ↔
      e.kind = .fetch ∧ e.state = .ready ∧
        ∃ x, (wordSpan e.addr
            (if e.leftover = true then e.length
            else if e.kind = .fetch ∧ e.prefetch = true then (128 - e.addr.toNat % 128) / 8
            else e.length)).mem x ∧
          ∃ (j : Nat) (w : HeldWord) (i : Fin 8), words[j]? = some w ∧ (w.get i).mask = true ∧
            base + 8 * j ≤ x ∧ x < base + 8 * j + 8 := by
  unfold madeStale
  simp only [Bool.and_eq_true, beq_iff_eq, List.any_eq_true, Span.overlaps_iff, and_assoc]
  refine and_congr_right fun _ => and_congr_right fun _ => ?_
  rw [Entry.heldWords_eq, Entry.accessWords_eq]
  constructor
  · rintro ⟨a, ha, x, hx, hx2, hx3⟩
    obtain ⟨j, w, h1, h2, rfl⟩ := (mem_writtenWords _ _ _).mp ha
    obtain ⟨i, hi⟩ := (wordWritten_iff w).mp h2
    exact ⟨x, hx, j, w, i, h1, hi, hx2, hx3⟩
  · rintro ⟨x, hx, j, w, i, h1, hi, h2, h3⟩
    exact ⟨base + 8 * j, (mem_writtenWords _ _ _).mpr ⟨j, w, h1, (wordWritten_iff w).mpr ⟨i, hi⟩, rfl⟩,
      x, hx, h2, h3⟩

/-- With distinct numbers, a change at one number is a change of that entry. -/
theorem map_at_slot {s : State} (hs : slotsDistinct s) {e : Entry} (he : e ∈ s.table)
    (f : Entry → Entry) :
    s.table.map (fun x => if x.slot = e.slot then f x else x) =
      s.table.map fun x => if x.slot = e.slot then f e else x := by
  refine List.map_congr_left fun x hx => ?_
  split
  next h => rw [slotsDistinct_eq hs hx he h]
  next => rfl

/-! ### Warm reset at a completion -/

/-- The test for the end of a warm reset fails while the bus is BUSY or a READY rank is OPEN. -/
theorem rowsClosed_eq_false {s : State}
    (h : s.bus ≠ none ∨ ∃ r, (s.rank r).state = .ready ∧ (s.rank r).activity = .rowOpen) :
    rowsClosed s = false := by
  unfold rowsClosed
  rcases h with h | ⟨r, h1, h2⟩
  · cases hb : s.bus with
    | none => exact absurd hb h
    | some _ => rfl
  · fin_cases r <;> simp_all

/-- It passes when the bus is FREE and no READY rank is OPEN. -/
theorem rowsClosed_eq_true {s : State}
    (h : ¬ (s.bus ≠ none ∨ ∃ r, (s.rank r).state = .ready ∧ (s.rank r).activity = .rowOpen)) :
    rowsClosed s = true := by
  rw [not_or, not_not, not_exists] at h
  obtain ⟨hb, hr⟩ := h
  have h0 := hr 0
  have h1 := hr 1
  unfold rowsClosed
  simp only [hb, Option.isNone_none, Bool.true_and, Bool.and_eq_true, Bool.not_eq_true',
    Bool.and_eq_false_iff, beq_eq_false_iff_ne]
  exact ⟨not_and_or.mp h0, not_and_or.mp h1⟩

/-- Out of a warm reset a completion adds nothing. -/
theorem warmStep_idle {s : State} (h : s.warm = .idle) : warmStep s = s := by
  simp [warmStep, endWarmReset, h]

/-- Past the clearing point a completion is the test for the end. -/
theorem warmStep_closing {s : State} (h : s.warm = .closing) : warmStep s = endWarmReset s := by
  simp [warmStep, h]

/-- While it waits, a completion is the clearing point and then the test for the end. -/
theorem warmStep_waiting {s : State} (h : s.warm = .waiting) :
    warmStep s = endWarmReset (clearAll s) := by
  simp [warmStep, h]

end Sys2Proof.Machine
end

