-- ==== Sys2Proof/Laws/Commands.lean ====
section
/-! SUPPORT. What a byte taken at a register does, and where the registers stand. -/

namespace Sys2Proof.Machine

/-! ### Bytes taken at a register -/

/-- A byte taken at a register has its effect, and the index pointer advances past the register. -/
theorem takeWrite_eq {s : State} (h : s.powerOnAsserted = false) (x : Register)
    (effect : State → State) :
    takeWrite s x effect = { effect s with indexPointer := x.index + 1 } := by
  unfold takeWrite
  rw [if_neg (by simp [h])]

/-- Under power-on reset no byte is taken. -/
theorem takeWrite_reset {s : State} (h : s.powerOnAsserted = true) (x : Register)
    (effect : State → State) : takeWrite s x effect = s := by
  unfold takeWrite
  rw [if_pos h]

/-- A command byte taken while the command state is IDLE. -/
theorem takeCommand_taken {s : State} (h : commandsTaken s) (effect : State → State) :
    takeCommand s effect = { effect s with indexPointer := 5 } := by
  unfold takeCommand
  rw [takeWrite_eq h.1]
  simp only [if_pos h.2]
  rfl

/-- A command byte while the command state is BUSY sets CMD_REFUSED alone. -/
theorem takeCommand_busy {s : State} (h : s.powerOnAsserted = false) (hw : s.warm ≠ .idle)
    (effect : State → State) :
    takeCommand s effect =
      { s with deviceFlags := s.deviceFlags ||| 0x80, indexPointer := 5 } := by
  unfold takeCommand
  rw [takeWrite_eq h]
  simp only [if_neg hw]
  rfl

/-- Under power-on reset no command byte is taken. -/
theorem takeCommand_reset {s : State} (h : s.powerOnAsserted = true) (effect : State → State) :
    takeCommand s effect = s :=
  takeWrite_reset h _ _

/-! ### The register map -/

theorem registerAt_index (x : Register) (h : x ≠ .unassigned) : registerAt x.index = x := by
  cases x with
  | unassigned => exact absurd rfl h
  | limit p => revert p; decide
  | eventMask p => revert p; decide
  | portState p => revert p; decide
  | heldCount p => revert p; decide
  | queueDepth p => revert p; decide
  | rankState r => revert r; decide
  | balance r => revert r; decide
  | doubtPresence r => revert r; decide
  | staging w f => cases f <;> revert w <;> decide
  | control w => revert w; decide
  | counterLow c =>
    cases c with
    | port p k => fin_cases p <;> cases k <;> rfl
    | device k =>
      cases k <;> simp [Register.index, counterIndex, DeviceCounter.place, registerAt, counterByte,
        deviceCounterAt]
    | row r => revert r; decide
  | counterHigh c =>
    cases c with
    | port p k => fin_cases p <;> cases k <;> rfl
    | device k =>
      cases k <;> simp [Register.index, counterIndex, DeviceCounter.place, registerAt, counterByte,
        deviceCounterAt]
    | row r => revert r; decide
  | _ => rfl

/-- Two named registers with one index are one register. -/
theorem Register.index_inj {x y : Register} (hx : x ≠ .unassigned) (hy : y ≠ .unassigned)
    (h : x.index = y.index) : x = y := by
  rw [← registerAt_index x hx, h, registerAt_index y hy]

theorem Register.staging_index_ne (w : WindowId) (f : StagingField) :
    (Register.staging w f).index ≠ Register.command.index := by
  intro h
  have := Register.index_inj Register.noConfusion Register.noConfusion h
  cases this

theorem Register.control_index_ne (w : WindowId) :
    (Register.control w).index ≠ Register.command.index := by
  intro h
  have := Register.index_inj Register.noConfusion Register.noConfusion h
  cases this

theorem Register.eventMask_index_ne (p : Port) :
    (Register.eventMask p).index ≠ Register.command.index := by
  intro h
  have := Register.index_inj Register.noConfusion Register.noConfusion h
  cases this

/-! ### Counters -/

/-- An advance by one that saturates at 65535 (R179). -/
theorem saturatingAdd_one (n : BitVec 16) :
    saturatingAdd n 1 = if n = 65535 then 65535 else n + 1 := by
  unfold saturatingAdd
  split_ifs with h
  · subst h; rfl
  · apply BitVec.eq_of_toNat_eq
    have : n.toNat ≠ 65535 := fun e => h (BitVec.eq_of_toNat_eq (by simpa using e))
    have := n.isLt
    simp [BitVec.toNat_add]
    omega

@[simp] theorem PortCounters.get_set_same (c : PortCounters) (k : PortCounter) (v : BitVec 16) :
    (c.set k v).get k = v := by
  cases k <;> rfl

theorem PortCounters.get_set_ne (c : PortCounters) {k j : PortCounter} (v : BitVec 16) (h : j ≠ k) :
    (c.set k v).get j = c.get j := by
  cases k <;> cases j <;> first | rfl | exact absurd rfl h

@[simp] theorem DeviceCounters.get_set_same (c : DeviceCounters) (k : DeviceCounter)
    (v : BitVec 16) : (c.set k v).get k = v := by
  cases k <;> rfl

theorem DeviceCounters.get_set_ne (c : DeviceCounters) {k j : DeviceCounter} (v : BitVec 16)
    (h : j ≠ k) : (c.set k v).get j = c.get j := by
  cases k <;> cases j <;> first | rfl | exact absurd rfl h

/-! ### Settings -/

/-- A written value adjusted into a range is the nearest value of the range (R172). -/
theorem clampByte_eq (lo hi v : Byte) (h : lo.toNat ≤ hi.toNat) :
    clampByte lo hi v = BitVec.ofNat 8 (max lo.toNat (min hi.toNat v.toNat)) := by
  apply BitVec.eq_of_toNat_eq
  have := lo.isLt
  have := hi.isLt
  have := v.isLt
  simp only [BitVec.toNat_ofNat]
  unfold clampByte
  split_ifs <;> omega

end Sys2Proof.Machine
end

