-- ==== Sys2Proof/Laws/Holds.lean ====
section
/-! SUPPORT. What an evaluation of grants can do (R82, R83): it turns QUEUED CLAIM entries READY and
fills their ports' hold slots, and touches nothing else. -/

namespace Sys2Proof.Machine

/-- A claim as its grant leaves it (R83). -/
def Entry.granted (s : State) (c : Entry) : Entry :=
  { c with state := .ready, result := some true, discardTimer := freshDiscard s }

/-- Table `u` differs from table `t` at most in QUEUED CLAIM entries turned READY by a grant. -/
def GrantedFrom (s : State) (t u : List Entry) : Prop :=
  ∃ g : Entry → Bool,
    (∀ c ∈ t, g c = true → c.kind = .claim ∧ c.state = .queued) ∧
      u = t.map fun c => if g c then c.granted s else c

theorem GrantedFrom.refl (s : State) (t : List Entry) : GrantedFrom s t t :=
  ⟨fun _ => false, by simp, by simp⟩

theorem GrantedFrom.trans {s : State} {t u v : List Entry} (h : GrantedFrom s t u)
    (k : GrantedFrom s u v) : GrantedFrom s t v := by
  obtain ⟨f, hf, rfl⟩ := h
  obtain ⟨g, hg, rfl⟩ := k
  refine ⟨fun c => f c || g c, ?_, ?_⟩
  · intro c hc hfg
    by_cases h1 : f c = true
    · exact hf c hc h1
    · simp only [Bool.not_eq_true] at h1
      have := hg c (List.mem_map.mpr ⟨c, hc, by simp [h1]⟩)
      simp only [h1, Bool.false_or] at hfg
      exact this hfg
  · rw [List.map_map]
    apply List.map_congr_left
    intro c hc
    by_cases h1 : f c = true
    · have h2 : g (c.granted s) ≠ true := by
        intro h2
        have := (hg (c.granted s) (List.mem_map.mpr ⟨c, hc, by simp [h1]⟩) h2).2
        simp [Entry.granted] at this
      simp [h1, h2]
    · simp [h1]

theorem grant_table (s : State) (c : Entry) :
    (grant s c).table = s.table.map fun e => if e.slot = c.slot then e.granted s else e := rfl

@[simp] theorem grant_port_same (s : State) (c : Entry) :
    (grant s c).port c.port =
      { s.port c.port with hold := some (holdOf s c), lastHoldExpired := false } := by
  show (s.setPort c.port _).port c.port = _
  simp

theorem grant_port_ne (s : State) (c : Entry) {p : Port} (h : p ≠ c.port) :
    (grant s c).port p = s.port p :=
  State.setPort_port_ne _ _ h

theorem grantIfPossible_port_ne (s : State) (c : Entry) {p : Port} (h : p ≠ c.port) :
    (grantIfPossible s c).port p = s.port p := by
  unfold grantIfPossible
  split
  · exact grant_port_ne s c h
  · rfl

theorem foldl_grantIfPossible_port (l : List Entry) (s : State) {p : Port}
    (h : ∀ c ∈ l, c.port ≠ p) : (l.foldl grantIfPossible s).port p = s.port p := by
  induction l generalizing s with
  | nil => rfl
  | cons c l ih =>
    rw [List.foldl_cons, ih _ fun d hd => h d (List.mem_cons_of_mem _ hd)]
    exact grantIfPossible_port_ne s c fun e => h c (List.mem_cons_self ..) e.symm

/-- A port without a QUEUED CLAIM entry is untouched by an evaluation of grants (R82). -/
theorem evaluateGrants_port {s : State} {p : Port}
    (h : ∀ c ∈ s.table, c.port = p → c.kind = .claim → c.state ≠ .queued) :
    (evaluateGrants s).port p = s.port p := by
  apply foldl_grantIfPossible_port
  intro c hc hp
  simp only [pendingClaims, List.mem_filter, Bool.and_eq_true, beq_iff_eq] at hc
  exact h c hc.1 hp hc.2.1 hc.2.2

/-- What an evaluation leaves of any port: its unit, but for the hold slot and the last-hold-expired
flag. -/
theorem grantIfPossible_port (s : State) (c : Entry) (p : Port) :
    (grantIfPossible s c).port p =
      { s.port p with
        hold := ((grantIfPossible s c).port p).hold
        lastHoldExpired := ((grantIfPossible s c).port p).lastHoldExpired } := by
  unfold grantIfPossible
  split
  · by_cases h : p = c.port
    · subst h; rw [grant_port_same]
    · rw [grant_port_ne s c h]
  · rfl

theorem foldl_grantIfPossible_unit (l : List Entry) (s : State) (p : Port) :
    (l.foldl grantIfPossible s).port p =
      { s.port p with
        hold := ((l.foldl grantIfPossible s).port p).hold
        lastHoldExpired := ((l.foldl grantIfPossible s).port p).lastHoldExpired } := by
  induction l generalizing s with
  | nil => rfl
  | cons c l ih =>
    rw [List.foldl_cons]
    have h1 := ih (grantIfPossible s c)
    have h2 := grantIfPossible_port s c p
    rw [h2] at h1
    exact h1

theorem evaluateGrants_unit (s : State) (p : Port) :
    (evaluateGrants s).port p =
      { s.port p with
        hold := ((evaluateGrants s).port p).hold
        lastHoldExpired := ((evaluateGrants s).port p).lastHoldExpired } :=
  foldl_grantIfPossible_unit _ s p

/-- One examined claim changes the table at most at its own entry. -/
theorem grantIfPossible_table (s : State) (c : Entry) :
    (grantIfPossible s c).table = s.table ∨
      (grantIfPossible s c).table =
        s.table.map fun e => if e.slot = c.slot then e.granted s else e := by
  unfold grantIfPossible
  split
  · exact .inr rfl
  · exact .inl rfl

theorem grantIfPossible_settings (s : State) (c : Entry) :
    (grantIfPossible s c).settings = s.settings :=
  (grantIfPossible_requestSide s c).settings

/-- A grant leaves number, port, kind, address and length of every entry. -/
theorem Entry.granted_frame (s : State) (e : Entry) :
    (e.granted s).slot = e.slot ∧ (e.granted s).port = e.port ∧ (e.granted s).kind = e.kind ∧
      (e.granted s).addr = e.addr ∧ (e.granted s).length = e.length :=
  ⟨rfl, rfl, rfl, rfl, rfl⟩

theorem freshDiscard_congr {s t : State} (h : t.settings = s.settings) :
    freshDiscard t = freshDiscard s := by
  simp [freshDiscard, h]

theorem foldl_grantIfPossible_table (l : List Entry) (s : State) (hs : slotsDistinct s)
    (hl : l.Pairwise fun c d => c.slot ≠ d.slot)
    (hm : ∀ c ∈ l, c ∈ s.table ∧ c.kind = .claim ∧ c.state = .queued) :
    GrantedFrom s s.table (l.foldl grantIfPossible s).table := by
  induction l generalizing s with
  | nil => exact GrantedFrom.refl s _
  | cons c l ih =>
    rw [List.foldl_cons]
    have hc := hm c (List.mem_cons_self ..)
    have hcl := List.pairwise_cons.mp hl
    have hset := grantIfPossible_settings s c
    have hfd : ∀ e : Entry, e.granted (grantIfPossible s c) = e.granted s := by
      intro e; simp [Entry.granted, freshDiscard_congr hset]
    have first : GrantedFrom s s.table (grantIfPossible s c).table := by
      rcases grantIfPossible_table s c with h | h
      · rw [h]; exact GrantedFrom.refl s _
      · rw [h]
        refine ⟨fun e => decide (e.slot = c.slot), ?_, by simp⟩
        intro e he hs'
        rw [slotsDistinct_eq hs he hc.1 (by simpa using hs')]
        exact hc.2
    have hs2 : slotsDistinct (grantIfPossible s c) := by
      rcases grantIfPossible_table s c with h | h
      · unfold slotsDistinct; rw [h]; exact hs
      · unfold slotsDistinct
        rw [h, List.map_map]
        have : ((fun x : Entry => x.slot) ∘ fun e => if e.slot = c.slot then e.granted s else e) =
            fun x => x.slot := by
          funext e; simp only [Function.comp]; split <;> rfl
        rw [this]; exact hs
    have hm2 : ∀ d ∈ l, d ∈ (grantIfPossible s c).table ∧ d.kind = .claim ∧ d.state = .queued := by
      intro d hd
      have hd' := hm d (List.mem_cons_of_mem _ hd)
      refine ⟨?_, hd'.2⟩
      rcases grantIfPossible_table s c with h | h
      · rw [h]; exact hd'.1
      · rw [h]
        refine List.mem_map.mpr ⟨d, hd'.1, ?_⟩
        rw [if_neg fun e => hcl.1 d hd e.symm]
    have rest := ih (grantIfPossible s c) hs2 hcl.2 hm2
    have rest' : GrantedFrom s (grantIfPossible s c).table
        (l.foldl grantIfPossible (grantIfPossible s c)).table := by
      obtain ⟨g, hg, he⟩ := rest
      refine ⟨g, hg, ?_⟩
      rw [he]
      simp only [hfd]
    exact first.trans rest'

theorem pairwise_slots {s : State} (hs : slotsDistinct s) :
    s.table.Pairwise fun c d => c.slot ≠ d.slot := by
  have h : (s.table.map (·.slot)).Pairwise (· ≠ ·) := hs
  exact List.pairwise_map.mp h

/-- What an evaluation does to the table (R82, R83): QUEUED CLAIM entries turn READY as granted, each in
its place, and no other entry changes. -/
theorem evaluateGrants_table {s : State} (hs : slotsDistinct s) :
    GrantedFrom s s.table (evaluateGrants s).table := by
  refine foldl_grantIfPossible_table _ s hs ((pairwise_slots hs).filter _) ?_
  intro c hc
  simpa [pendingClaims, List.mem_filter] using hc

/-- Without a QUEUED CLAIM entry an evaluation of grants changes nothing. -/
theorem evaluateGrants_idle {s : State}
    (h : ∀ c ∈ s.table, c.kind = .claim → c.state ≠ .queued) : evaluateGrants s = s := by
  have : pendingClaims s = [] := by
    rw [pendingClaims, List.filter_eq_nil_iff]
    intro c hc
    simpa using h c hc
  simp [evaluateGrants, this]

/-! ### What else an evaluation leaves -/

theorem grantIfPossible_counters (s : State) (c : Entry) :
    (grantIfPossible s c).counters = s.counters ∧
      (grantIfPossible s c).deviceFlags = s.deviceFlags := by
  unfold grantIfPossible
  split <;> exact ⟨rfl, rfl⟩

theorem foldl_grantIfPossible_counters (l : List Entry) (s : State) :
    (l.foldl grantIfPossible s).counters = s.counters ∧
      (l.foldl grantIfPossible s).deviceFlags = s.deviceFlags := by
  induction l generalizing s with
  | nil => exact ⟨rfl, rfl⟩
  | cons c l ih =>
    have h := grantIfPossible_counters s c
    have k := ih (grantIfPossible s c)
    exact ⟨k.1.trans h.1, k.2.trans h.2⟩

@[simp] theorem evaluateGrants_counters (s : State) : (evaluateGrants s).counters = s.counters :=
  (foldl_grantIfPossible_counters _ s).1

@[simp] theorem evaluateGrants_deviceFlags (s : State) :
    (evaluateGrants s).deviceFlags = s.deviceFlags :=
  (foldl_grantIfPossible_counters _ s).2

/-- An evaluation of grants changes the table and the port units alone (R82). -/
theorem evaluateGrants_eq (s : State) :
    evaluateGrants s =
      { s with table := (evaluateGrants s).table, ports := (evaluateGrants s).ports } := by
  have h := evaluateGrants_requestSide s
  unfold RequestSide at h
  rw [evaluateGrants_counters, evaluateGrants_deviceFlags] at h
  exact h

/-! ### The end of a hold (R87) -/

theorem isGrantedClaim_iff (p : Port) (e : Entry) :
    isGrantedClaim p e = true ↔
      e.port = p ∧ e.kind = .claim ∧ e.state = .ready ∧ e.result = some true := by
  simp [isGrantedClaim, and_assoc]

theorem withdrawClaim_eq (s : State) (p : Port) :
    withdrawClaim s p =
      { s with
        table := s.table.map fun e =>
          if e.port = p ∧ e.kind = .claim ∧ e.state = .ready ∧ e.result = some true then
            { e with result := some false }
          else e } := by
  have h : (fun e : Entry => if isGrantedClaim p e then { e with result := some false } else e) =
      fun e => if e.port = p ∧ e.kind = .claim ∧ e.state = .ready ∧ e.result = some true then
        { e with result := some false } else e := by
    funext e
    by_cases hg : isGrantedClaim p e = true
    · rw [if_pos hg, if_pos ((isGrantedClaim_iff p e).mp hg)]
    · rw [if_neg hg, if_neg fun k => hg ((isGrantedClaim_iff p e).mpr k)]
  unfold withdrawClaim
  rw [h]

theorem freeGrantedClaim_eq (s : State) (p : Port) :
    freeGrantedClaim s p =
      { s with
        table := s.table.filter fun e =>
          decide (¬ (e.port = p ∧ e.kind = .claim ∧ e.state = .ready ∧ e.result = some true)) } := by
  have h : (fun e : Entry => !isGrantedClaim p e) = fun e =>
      decide (¬ (e.port = p ∧ e.kind = .claim ∧ e.state = .ready ∧ e.result = some true)) := by
    funext e
    refine Bool.eq_iff_iff.mpr ?_
    rw [decide_eq_true_iff, ← isGrantedClaim_iff]
    simp
  unfold freeGrantedClaim
  rw [h]

/-- What the expiry or revocation of an active hold does (R88, R89). -/
theorem expireHold_eq {s : State} {p : Port} {h : Hold} (hh : (s.port p).hold = some h)
    (cause : Cause) :
    expireHold s p cause =
      evaluateGrants
        { s with
          table := s.table.map fun e =>
            if e.port = p ∧ e.kind = .claim ∧ e.state = .ready ∧ e.result = some true then
              { e with result := some false }
            else e
          ports := s.ports.set p
            (({ s.port p with hold := none, lastHoldExpired := true } : PortUnit).raised
              .holdExpired h.base cause) } := by
  unfold expireHold
  rw [hh]
  simp only [withdrawClaim_eq, raiseEvent_eq, freeHold, State.setPort_port_same,
    State.setPort_setPort]
  rfl

/-- With the slot FREE there is no hold to end. -/
theorem expireHold_none {s : State} {p : Port} (hh : (s.port p).hold = none) (cause : Cause) :
    expireHold s p cause = s := by
  simp [expireHold, hh]

/-- What a DROP answered DONE does (R35). -/
theorem releaseHold_eq (s : State) (p : Port) :
    releaseHold s p =
      evaluateGrants
        { s with
          table := s.table.filter fun e =>
            decide (¬ (e.port = p ∧ e.kind = .claim ∧ e.state = .ready ∧ e.result = some true))
          ports := s.ports.set p { s.port p with hold := none } } := by
  unfold releaseHold
  rw [freeGrantedClaim_eq]
  rfl

/-! ### The port cleanup (R162) -/

theorem portCleanup_eq (s : State) (p : Port) :
    portCleanup s p = evaluateGrants (cleanedUp s p) := by
  have htable : s.table.filterMap (cleanEntry p) =
      (s.table.filter fun e => decide (e.port ≠ p ∨ e.state = .issued)).map fun e =>
        if e.port = p then { e with orphan := true } else e := by
    rw [← List.filterMap_eq_map, List.filterMap_filter]
    apply List.filterMap_congr
    intro e _
    unfold cleanEntry
    by_cases h : e.port = p <;> by_cases h2 : e.state = .issued <;> simp [h, h2]
  have hdrops : cleanupDrops s p =
      (s.table.filter fun e => decide (e.port = p ∧ e.state ≠ .issued)).flatMap (·.readData) := by
    unfold cleanupDrops
    congr 1
    apply List.filter_congr
    intro x _
    exact Bool.eq_iff_iff.mpr (by simp)
  unfold portCleanup cleanedUp
  rw [htable, hdrops]
  rfl

/-- A cleaned port has no QUEUED entry. -/
theorem cleanedUp_not_queued (s : State) (p : Port) :
    ∀ c ∈ (cleanedUp s p).table, c.port = p → c.kind = .claim → c.state ≠ .queued := by
  intro c hc hp _ hq
  simp only [cleanedUp, List.mem_map, List.mem_filter, decide_eq_true_eq] at hc
  obtain ⟨x, ⟨_, hx⟩, rfl⟩ := hc
  by_cases h : x.port = p
  · simp [h] at hx hq; rw [hx] at hq; cases hq
  · simp [h] at hp

/-- The cleaned port's unit is as the cleanup leaves it: the evaluation grants it nothing. -/
theorem portCleanup_port (s : State) (p : Port) :
    (portCleanup s p).port p = (cleanedUp s p).port p := by
  rw [portCleanup_eq]
  exact evaluateGrants_port (cleanedUp_not_queued s p)

end Sys2Proof.Machine
end

