-- ==== Sys2Proof/Laws/Scheduler.lean ====
section
/-! SUPPORT. The scheduler's tests as the propositions of Safety.lean, and what a port offers. -/

namespace Sys2Proof.Machine

theorem placeReady_iff (s : State) (x : Option Place) :
    placeReady s x = true ↔ ∃ place, x = some place ∧ (s.rank place.rank).state = .ready := by
  cases x <;> simp [placeReady]

theorem heldBackByFence_iff (s : State) (e : Entry) :
    heldBackByFence s e = true ↔
      e.kind = .putSync ∧
        ∃ c ∈ s.table.takeWhile (fun x => x.slot != e.slot), fences s e.port e.accessSpan c := by
  simp only [heldBackByFence, Bool.and_eq_true, beq_iff_eq, List.any_eq_true]
  refine and_congr_right fun _ => ⟨?_, ?_⟩
  · rintro ⟨c, hc, ⟨hk, hq⟩, hf⟩
    exact ⟨c, hc, (fencedBy_iff s _ _ hk hq).mp hf⟩
  · rintro ⟨c, hc, hf⟩
    exact ⟨c, hc, ⟨hf.1, hf.2.1⟩, (fencedBy_iff s _ _ hf.1 hf.2.1).mpr hf⟩

/-- An entry is issuable as R22 says. -/
theorem issuable_iff (s : State) (e : Entry) : issuable s e = true ↔ mayIssue s e := by
  simp only [issuable, mayIssue, Bool.and_eq_true, beq_iff_eq, bne_iff_ne, placeReady_iff,
    Bool.not_eq_true', ← Bool.not_eq_true, foreignHoldOverlaps_iff, heldBackByFence_iff, not_and,
    not_exists, and_assoc]

/-- An issuable entry is older than any PUT still queued: its fence is met (R54, R55). -/
theorem entryOlder_of_mayIssue {s : State} {e : Entry} (h : mayIssue s e) (q : PutEntry) :
    entryOlder e q = true := by
  simp [entryOlder, h.2.2.2.1]

theorem forcedCandidate_ready {s : State} {r : RankId} (h : refreshForced s r)
    (hr : (s.rank r).state = .ready) : forcedCandidate s r = some .forced := by
  rcases h with h | h
  · simp [forcedCandidate, h.1, h.2.1, h.2.2]
  · rw [h.1] at hr; cases hr

theorem forcedCandidate_wake {s : State} {r : RankId} (h : refreshForced s r)
    (hr : (s.rank r).state = .wake) : forcedCandidate s r = some .wake := by
  rcases h with h | h
  · rw [h.1] at hr; cases hr
  · simp [forcedCandidate, h.1, h.2]

theorem forcedCandidate_none {s : State} {r : RankId} (h : ¬ refreshForced s r) :
    forcedCandidate s r = none := by
  unfold refreshForced at h
  rw [not_or] at h
  unfold forcedCandidate
  dsimp only
  rw [if_neg fun k => h.1 ⟨k.1, k.2.1, by simpa using k.2.2⟩, if_neg h.2]

theorem closeCandidate_iff (s : State) (r : RankId) :
    closeCandidate s r = true ↔ closeDueNow s r := by
  simp [closeCandidate, closeDueNow, and_assoc]

theorem pullInCandidate_iff (s : State) (r : RankId) :
    pullInCandidate s r = true ↔ pullInPossible s r := by
  simp [pullInCandidate, pullInPossible, and_assoc]

/-- A candidate is its port's (R102). -/
theorem accessCandidate_port {s : State} {p : Port} {c : Candidate}
    (h : accessCandidate s p = some c) : c.port = p := by
  have hentry : ∀ e : Entry, oldestIssuable s p = some e → e.port = p := by
    intro e he
    have := List.find?_some he
    simp only [Bool.and_eq_true, beq_iff_eq] at this
    exact this.1
  have hcand : ∀ e : Entry, oldestIssuable s p = some e → candidateOfEntry e = some c →
      c.port = p := by
    intro e he hc
    simp only [candidateOfEntry, Option.map_eq_some_iff] at hc
    obtain ⟨x, -, rfl⟩ := hc
    exact hentry e he
  unfold accessCandidate at h
  split at h
  next e q he hq =>
    split at h
    · exact hcand e he h
    · cases h; rfl
  next e he hq => exact hcand e he h
  next q he hq => cases h; rfl
  next => cases h

/-- The scan names every port once (R105). -/
theorem mem_scanOrder (x p : Port) : p ∈ scanOrder x := by
  fin_cases x <;> fin_cases p <;> decide

theorem isHit_iff (s : State) (c : Candidate) :
    isHit s c = true ↔
      (s.rank c.place.rank).activity = .rowOpen ∧
        (s.rank c.place.rank).openRow = some c.place.row := by
  simp [isHit]

/-- The first candidate with a property is that of the first port whose candidate has it. -/
theorem head?_filter_filterMap (l : List Port) (ac : Port → Option Candidate) 
    (f : Candidate → Bool) :
    ((l.filterMap ac).filter f).head? = (l.find? (fun p => (ac p).any f)).bind ac := by
  induction l with
  | nil => rfl
  | cons p l ih =>
    cases h : ac p with
    | none => simp [h, ih]
    | some c =>
      by_cases hc : f c = true
      · simp [h, hc]
      · simp [h, hc, ih]

/-- The first port of the scan with a property is the one nearest above the pointer (R105). -/
theorem find?_scanOrder (ptr w : Port) (P : Port → Bool) (h : P w = true)
    (hm : ∀ q, P q = true → (w - ptr).val ≤ (q - ptr).val) : (scanOrder ptr).find? P = some w := by
  have h0 := hm 0; have h1 := hm 1; have h2 := hm 2; have h3 := hm 3
  revert h h0 h1 h2 h3
  clear hm
  generalize P = Q
  fin_cases ptr <;> fin_cases w <;> simp [scanOrder, List.find?_cons] <;>
    (cases h0 : Q 0 <;> cases h1 : Q 1 <;> cases h2 : Q 2 <;> cases h3 : Q 3 <;> simp_all <;> decide)

/-- The winner among the access candidates is the one that R105 names. -/
theorem accessWinner_eq {s : State} {w : Port} {c : Candidate} (hwarm : s.warm = .idle)
    (hc : accessCandidate s w = some c) (hw : winsAccess s w) : accessWinner s = some c := by
  have hall : scannedCandidates s = (scanOrder s.sched.pointer).filterMap (accessCandidate s) := by simp [scannedCandidates, hwarm]
  have he : ∀ p, (accessCandidate s p).any (eligibleHit s) = true ↔ eligibleHitOf s p := by
    intro p
    unfold eligibleHitOf
    cases h : accessCandidate s p with
    | none => simp
    | some x =>
      have := accessCandidate_port h
      simp [eligibleHit, isHit, this, and_assoc]
      intros; tauto
  have hhead : firstInScan s (fun q => accessCandidate s q ≠ none) w → (scannedCandidates s).head? = some c := by
    intro hfs
    have h1 := head?_filter_filterMap (scanOrder s.sched.pointer) (accessCandidate s) (fun _ => true)
    have h2 : (scanOrder s.sched.pointer).find? (fun p => (accessCandidate s p).any fun _ => true) = some w := by
      apply find?_scanOrder
      · simp [hc]
      · intro q hq; apply hfs.2
        intro hn; simp [hn] at hq
    rw [h2] at h1
    rw [hall, ← hc]
    simpa using h1
  have hhits : firstInScan s (eligibleHitOf s) w → ((scannedCandidates s).filter (eligibleHit s)).head? = some c := by
    intro hfs
    have h1 := head?_filter_filterMap (scanOrder s.sched.pointer) (accessCandidate s) (eligibleHit s)
    have h2 : (scanOrder s.sched.pointer).find? (fun p => (accessCandidate s p).any (eligibleHit s)) = some w := by
      apply find?_scanOrder
      · exact (he w).mpr hfs.1
      · intro q hq; exact hfs.2 q ((he q).mp hq)
    rw [h2] at h1
    rw [hall, h1]
    simp [hc]
  have hmem : ∀ x, x ∈ (scannedCandidates s).filter (eligibleHit s) ↔ accessCandidate s x.port = some x ∧ eligibleHit s x = true := by
    intro x
    rw [List.mem_filter, hall, List.mem_filterMap]
    refine and_congr_left fun _ => ⟨?_, fun h => ⟨x.port, mem_scanOrder _ _, h⟩⟩
    rintro ⟨p, _, hp⟩
    rw [accessCandidate_port hp]; exact hp
  unfold winsAccess at hw
  unfold accessWinner
  dsimp only at hw ⊢
  by_cases hcond : s.settings.pagePolicy = .leaveOpen ∧ 0 < s.settings.streakLimit.toNat
  · rw [if_pos hcond] at hw ⊢
    rcases hw with ⟨h1, h2⟩ | ⟨h1, h2⟩ | ⟨h1, h2⟩
    · have : ((scannedCandidates s).filter (eligibleHit s)).find? (fun c => s.sched.streakPort == some c.port) = some c := by
        cases hx : ((scannedCandidates s).filter (eligibleHit s)).find? (fun c => s.sched.streakPort == some c.port) with
        | none =>
          have := List.find?_eq_none.mp hx c ((hmem c).mpr ⟨by rw [accessCandidate_port hc]; exact hc, by
            have := (he w).mpr h2; rw [hc] at this; simpa using this⟩)
          simp [accessCandidate_port hc, h1] at this
        | some y =>
          have h3 := List.find?_some hx
          have h4 := (hmem y).mp (List.mem_of_find?_eq_some hx)
          rw [h1] at h3
          have : y.port = w := by simpa using (beq_iff_eq.mp h3).symm
          rw [this] at h4
          rw [← hc, h4.1]
      rw [this]
    · have : ((scannedCandidates s).filter (eligibleHit s)).find? (fun c => s.sched.streakPort == some c.port) = none := by
        rw [List.find?_eq_none]
        intro x hx hs
        have h3 := (hmem x).mp hx
        refine h1 x.port ⟨by simpa using hs, ?_⟩
        rw [← he, h3.1]; exact h3.2
      rw [this]
      have h5 := hhits h2
      cases hl : (scannedCandidates s).filter (eligibleHit s) with
      | nil => rw [hl] at h5; cases h5
      | cons a l => rw [hl] at h5; simpa using h5
    · have hnil : (scannedCandidates s).filter (eligibleHit s) = [] := by
        rw [List.eq_nil_iff_forall_not_mem]
        intro x hx
        have h3 := (hmem x).mp hx
        exact h1 x.port ((he x.port).mp (by rw [h3.1]; exact h3.2))
      rw [hnil]
      exact hhead h2
  · rw [if_neg hcond] at hw ⊢
    exact hhead hw

end Sys2Proof.Machine
end

