-- ==== Sys2Proof/Tests/Slice0.lean ====
section
/-! SUPPORT. Tests: ill-formed commands, words written out from the manual's encodings, small worked
examples of the manual, and for each statement with hypotheses a state and operands that meet them. -/

namespace Sys2Proof.Tests

open Sys2Proof.Machine

/-! ### Small states -/

/-- One word of write data: byte 0 is 0x01 with a good parity bit and its mask set; the rest is not
written. -/
def oneWord : LinkWord :=
  (Oct.all { data := 0, parity := true, mask := false }).set 0
    { data := 0x01, parity := false, mask := true }

/-- The same word with a bad parity bit at byte 0. -/
def badWord : LinkWord :=
  oneWord.set 0 { data := 0x01, parity := true, mask := true }

/-- A window over the whole address space, READ_WRITE for every port, claimable. -/
def wholeWindow : Window :=
  let r : WindowRecord :=
    { base := 0, limit := 0xFFFF, rights := 0xAA, prefetchable := false, claimable := true }
  { active := r, staging := r, staged := false }

/-- A rank with presence code 2 that has completed its initialization refreshes. -/
def readyRank : RankControl :=
  { rankAtRelease 2 with state := .ready, pauseTimer := none, intervalTimer := some 78 }

/-- Reset with every port in the given state. -/
def portsIn (mode : PortMode) : State :=
  let u := { idlePort with mode := mode }
  { State.reset with ports := { p0 := u, p1 := u, p2 := u, p3 := u } }

/-- The part in service: ports ACTIVE, one window over everything, both ranks READY. -/
def running : State :=
  { portsIn .active with
    windows := (Oct.all offWindow).set 0 wholeWindow
    ranks := { r0 := readyRank, r1 := readyRank } }

/-- A QUEUED entry of `port`, 2 words (or units) from 0x1000, with its fence met. -/
def entryOf (n : Slot) (port : Port) (kind : EntryKind) : Entry :=
  { slot := n, port := port, kind := kind, state := .queued, addr := 0x1000, length := 2
    place := if kind = .claim then none else some { rank := 0, row := 0 }
    window := 0, prefetch := false, fence := 0, fenceMet := true
    writeData := if kind = .putSync then heldWordsOf [oneWord, oneWord] else []
    readData := [], result := none, leftover := false, orphan := false, discardTimer := none }

/-- A READY entry with the given result and words. -/
def readyOf (e : Entry) (result : Option Bool) (words : List ReadWord) : Entry :=
  { e with state := .ready, result := result, readData := words, discardTimer := some 640 }

/-- The words of 0x1000 to 0x100F as `listed` holds them, the second marked. -/
def twoWords : List ReadWord :=
  let good : StoredByte := { data := 0, parity := true }
  [{ bytes := Oct.all good, poison := false },
    { bytes := (Oct.all good).set 7 { data := 0, parity := false }, poison := true }]

/-- A memory that lists the sixteen bytes of `twoWords` at 0x1000. -/
def listed : Memory :=
  (List.range 15).map (fun i => (0x1000 + i, { data := 0, parity := true })) ++
    [(0x100F, { data := 0, parity := false })]

/-- A hold over 0x1000 to 0x107F. -/
def aHold : Hold :=
  { base := 0x1000, units := 2, window := 0, timer := 2000 }

/-- The running part with the given table. -/
def withTable (table : List Entry) : State :=
  { running with table := table, memory := listed }

/-- The running part with `aHold` in port `p`'s slot. -/
def holding (p : Port) : State :=
  running.setPort p { running.port p with hold := some aHold }

/-- A queued PUT of 1 word at 0x1000 with sequence number `n`. -/
def putNumber (n : BitVec 16) : PutEntry :=
  { seq := n, addr := 0x1000, length := 1, words := heldWordsOf [oneWord]
    place := { rank := 0, row := 0 }, window := 0, inFlight := false }

/-- The running part with `n` PUTs of port `p` queued. -/
def queued (p : Port) (n : Nat) : State :=
  running.setPort p
    { running.port p with
      queue := (List.range n).map fun i => putNumber (BitVec.ofNat 16 (i + 1))
      taken := BitVec.ofNat 16 n }

/-- An ACCESS of port 0 to 2 words at 0x1000. -/
def accessOf (work : Work) (write : Bool) (words : Nat) : Access :=
  { write := write, rank := 0, row := 0, port := 0, work := work, base := 0x1000, words := words
    policy := .leaveOpen }

/-- A state with an operation in progress on rank 0. -/
def during (s : State) (x : BusOp) : State :=
  { s with bus := some x, ranks := { s.ranks with r0 := { s.ranks.r0 with activity := .busy } } }

/-- The last answer waiting at port `p` after a command. -/
def answerOf (p : Port) (x : Host.Outcome State Fault Refusal) : Option Answer :=
  match x with
  | .next t => (t.port p).answers.getLast?
  | _ => none

/-- A condition on the next state of a command. -/
def after (x : Host.Outcome State Fault Refusal) (f : State → Bool) : Bool :=
  match x with
  | .next t => f t
  | _ => false

/-! ### Ill-formed commands -/

theorem test_wellFormed_refuses_put_of_wrong_size : WellFormed (.put 0 1 0x1000 2 [oneWord]) = false := by
  decide

theorem test_wellFormed_refuses_putSync_of_wrong_size : WellFormed (.putSync 0 1 0x1000 0 [oneWord]) = false := by
  decide

theorem test_wellFormed_refuses_named_kind :
    WellFormed (.unnamedKindFrame 0 1 1 0 0) = false ∧ WellFormed (.unnamedKindFrame 0 6 1 0 0) = false ∧
      WellFormed (.unnamedKindFrame 0 0 1 0 0) = true ∧ WellFormed (.unnamedKindFrame 0 7 1 0 0) = true := by
  decide

theorem test_wellFormed_refuses_named_command :
    WellFormed (.unknownCommand 0x10) = false ∧ WellFormed (.unknownCommand 0x61) = false ∧
      WellFormed (.unknownCommand 0x62) = true ∧ WellFormed (.unknownCommand 0x8F) = false ∧
      WellFormed (.unknownCommand 0x90) = true := by
  decide

theorem test_wellFormed_refuses_register_with_own_row :
    WellFormed (.registerWrite 0x02 0) = false ∧ WellFormed (.registerWrite 0x04 0x10) = false ∧
      WellFormed (.registerWrite 0x14 0) = false ∧ WellFormed (.registerWrite 0x5F 0) = false ∧
      WellFormed (.registerWrite 0x06 0) = true ∧ WellFormed (.registerWrite 0xFF 0) = true := by
  decide

/-! ### Words written out from the encodings (R151, R152, R172, R174) -/

theorem test_decode_fetch :
    frameOfBytes 2 [0x01, 0x04, 0x5A, 0x40, 0x00, 0x10, 0x00, 0x0F] =
      .fetch 2 0x5A 0x00100040 4 := by decide

theorem test_decode_claim :
    frameOfBytes 0 [0x04, 0x02, 0x11, 0x00, 0x00, 0x08, 0x00, 0x1F] =
      .claim 0 0x11 0x00080000 2 := by decide

theorem test_decode_drop :
    frameOfBytes 1 [0x05, 0x00, 0x07, 0x00, 0x00, 0x08, 0x00, 0x0A] =
      .drop 1 0x07 0x00080000 0 := by decide

theorem test_decode_status :
    frameOfBytes 3 [0x06, 0x00, 0x22, 0x00, 0x00, 0x00, 0x00, 0x24] = .status 3 0x22 0 0 := by decide

theorem test_decode_unnamed_kind :
    frameOfBytes 3 [0x07, 0x00, 0x22, 0x00, 0x00, 0x00, 0x00, 0x25] =
      .unnamedKindFrame 3 7 0x22 0 0 := by decide

/-- A damaged check byte, and a frame too short to hold a tag. -/
theorem test_decode_garbled :
    frameOfBytes 1 [0x01, 0x04, 0x5A, 0x40, 0x00, 0x10, 0x00, 0x0E] = .garbledFrame 1 0x5A ∧
      frameOfBytes 1 [0x01, 0x04] = .garbledFrame 1 0 := by decide

/-- The data part: data bytes 0 to 7, the parity byte, the mask byte. -/
theorem test_decode_put :
    frameOfBytes 0 [0x02, 0x01, 0x33, 0x08, 0x00, 0x00, 0x00, 0x38,
        0x01, 0x02, 0x03, 0x04, 0x05, 0x06, 0x07, 0x08, 0x40, 0x81] =
      .put 0 0x33 0x00000008 1
        [{ x0 := { data := 0x01, parity := false, mask := true }
           x1 := { data := 0x02, parity := false, mask := false }
           x2 := { data := 0x03, parity := false, mask := false }
           x3 := { data := 0x04, parity := false, mask := false }
           x4 := { data := 0x05, parity := false, mask := false }
           x5 := { data := 0x06, parity := false, mask := false }
           x6 := { data := 0x07, parity := true, mask := false }
           x7 := { data := 0x08, parity := false, mask := true } }] := by decide

theorem test_decode_commands :
    commandOfByte 0x13 = .enable 3 ∧ commandOfByte 0x2E = .drain 2 ∧ commandOfByte 0x31 = .revoke 1 ∧
      commandOfByte 0x40 = .refreshPause ∧ commandOfByte 0x50 = .refreshResume ∧
      commandOfByte 0x60 = .clearDoubt 0 ∧ commandOfByte 0x62 = .unknownCommand 0x62 ∧
      commandOfByte 0x70 = .clearCounters ∧ commandOfByte 0x80 = .warmReset ∧
      commandOfByte 0x90 = .unknownCommand 0x90 := by decide

/-- The first and the last bytes of the write of section 11.1, step 4. -/
theorem test_decode_window_write :
    commandsOfTransaction [0x30, 0x00, 0x00, 0x0F, 0x00, 0xAA, 0x02] =
      [.indexPointerSet 0x30, .windowStagingWrite 0 .baseLow 0x00,
        .windowStagingWrite 0 .baseHigh 0x00, .windowStagingWrite 0 .limitLow 0x0F,
        .windowStagingWrite 0 .limitHigh 0x00, .windowStagingWrite 0 .rights 0xAA,
        .windowControlWrite 0 0x02] := by decide

theorem test_register_indices :
    Register.index (.counterLow (.port 2 .hostParity)) = 0x74 ∧
      Register.index (.doubtPresence 1) = 0x2D ∧ Register.index (.portState 3) = 0x21 ∧
      Register.index (.control 1) = 0x3B := by decide

/-! ### Requests -/

/-- Section 11.1: a FETCH before the port is enabled, before a window is active, and in service. -/
theorem test_fetch_bringUp :
    answerOf 0 (exec (.fetch 0 9 0x1000 1) (portsIn .off)) = some (.deny 9 .portOff) ∧
      answerOf 0 (exec (.fetch 0 9 0x1000 1) (portsIn .active)) = some (.deny 9 .window) ∧
      answerOf 0 (exec (.fetch 0 9 0x1000 1) running) = some (.again 9) := by decide

/-- Section 11.3: a FETCH of one word hands it over and leaves the rest as a leftover 8 bytes on. -/
theorem test_fetch_leavesLeftover :
    after (exec (.fetch 0 9 0x1000 1) (withTable [readyOf { entryOf 3 0 .fetch with length := 1 } none twoWords]))
      (fun t => t.table.map (fun e => (e.slot, e.addr, e.length, e.leftover)) == [(3, 0x1008, 1, true)])
      = true := by decide

theorem test_put_taken :
    answerOf 0 (exec (.put 0 9 0x1000 1 [oneWord]) running) = some (.taken 9) := by decide

/-- Section 11.5: a PUT outside the older claim but inside the younger one is turned away, and the full
counter stays. -/
theorem test_put_fenced :
    after (exec (.put 3 9 0x1080 1 [oneWord])
        (withTable [entryOf 0 1 .claim, { entryOf 1 2 .claim with addr := 0x1040 }]))
      (fun t => (t.port 3).answers == [.again 9] && (t.port 3).counters.full == 0) = true := by decide

theorem test_putSync_mismatch :
    answerOf 0 (exec (.putSync 0 9 0x1000 2 [oneWord, oneWord.set 0 { data := 0x02, parity := false, mask := true }])
      (withTable [entryOf 0 0 .putSync])) = some (.deny 9 .mismatch) := by decide

/-- A byte of bad parity raises HOST_PARITY with the request's address. -/
theorem test_putSync_badParity :
    after (exec (.putSync 0 9 0x1000 1 [badWord]) running)
      (fun t => (t.port 0).flags == 0x04 && (t.port 0).record.addr == 0x1000) = true := by decide

theorem test_claim_double :
    answerOf 1 (exec (.claim 1 9 0x2000 1) (holding 1)) = some (.deny 9 .double) := by decide

/-- Section 11.5: a claim that overlaps an older one of another port waits. -/
theorem test_claim_waits :
    after (exec (.claim 2 9 0x1040 2) (holding 1))
      (fun t => (t.port 2).hold == none && (t.port 2).answers == [.again 9]) = true := by decide

/-- Section 11.5: the DROP of a hold that expired. -/
theorem test_drop_late :
    after (exec (.holdTimerExpiry 1) (holding 1))
      (fun t => answerOf 1 (exec (.drop 1 9 0x1000 0) t) == some (.deny 9 .late)) = true := by decide

/-- Section 11.6: the DROP after a port reset. -/
theorem test_drop_notHeld :
    answerOf 2 (exec (.drop 2 9 0x2000 0) running) = some (.deny 9 .notHeld) := by decide

theorem test_status_off :
    answerOf 0 (exec (.status 0 9 0 0) State.reset) = some (.state 9 0 emptyRecord) := by decide

theorem test_garbledFrame_fourth :
    after (exec (.garbledFrame 1 9) (running.setPort 1 { running.port 1 with garbleCount := 3 }))
      (fun t => (t.port 1).mode == .fault && t.deviceFlags == 0x04) = true := by decide

theorem test_unnamedKind_form :
    answerOf 0 (exec (.unnamedKindFrame 0 7 9 0 0) running) = some (.deny 9 .form) := by decide

/-! ### Memory bus -/

/-- Section 11.3: B starts at byte 64 of its block, so its read range is 8 words. -/
theorem test_readRange :
    Entry.accessWords { entryOf 0 1 .fetch with addr := 0x00301040, prefetch := true } = 8 := by decide

theorem test_decision_issuesOldest :
    after (exec .decision (withTable [entryOf 5 0 .fetch, { entryOf 1 0 .fetch with addr := 0x2000 }]))
      (fun t => t.bus == some (.access (accessOf (.entry 5) false 2))) = true := by decide

theorem test_accessRead_fills :
    after (exec .accessReadComplete
        (during (withTable [{ entryOf 5 0 .fetch with state := .issued }])
          (.access (accessOf (.entry 5) false 2))))
      (fun t => t.table.map (·.readData) == [twoWords]) = true := by decide

theorem test_accessWrite_stores :
    after (exec .accessWriteComplete (during (queued 0 1) (.access (accessOf .putHead true 1))))
      (fun t => t.memory == [(0x1000, { data := 0x01, parity := false })] &&
        (t.port 0).queue == [] && (t.port 0).written == 1) = true := by decide

/-- Section 11.7: with the balance at +8 a resumed part issues a forced refresh. -/
theorem test_refresh_forced :
    after (exec .decision (running.setRank 0 { readyRank with balance := 8 }))
      (fun t => t.bus == some (.refresh 0 .forced) && t.counters.forcedRefresh == 1) = true := by decide

theorem test_refreshComplete :
    after (exec .refreshComplete (during (running.setRank 0 { readyRank with balance := 8, rowCounter := 1000 })
        (.refresh 0 .forced)))
      (fun t => (t.rank 0).balance == 7 && (t.rank 0).rowCounter == 1001) = true := by decide

theorem test_initialization_last :
    after (exec .initializationRefreshComplete
        (during (running.setRank 0 { readyRank with state := .wake, wakeCount := 1 }) (.refresh 0 .wake)))
      (fun t => (t.rank 0).state == .ready && t.deviceFlags == 0x20) = true := by decide

theorem test_closeComplete :
    after (exec .closeComplete (during running (.close 0)))
      (fun t => (t.rank 0).activity == .idle && t.bus == none) = true := by decide

/-! ### Timers -/

theorem test_discardExpiry :
    after (exec (.discardTimerExpiry 5) (withTable [readyOf (entryOf 5 0 .fetch) none twoWords]))
      (fun t => t.table == [] && (t.port 0).flags == 0x01 && (t.port 0).counters.discard == 1 &&
        t.counters.suppressedPoison == 1) = true := by decide

/-- Section 11.5: record 0x1000 cause TIMER, last hold expired set. -/
theorem test_holdExpiry :
    after (exec (.holdTimerExpiry 1) (holding 1))
      (fun t => (t.port 1).record == { kind := some .holdExpired, addr := 0x1000, cause := .timer, more := false }
        && (t.port 1).lastHoldExpired) = true := by decide

/-- Section 11.7: an expiry at +8 is an overrun. -/
theorem test_intervalExpiry_overrun :
    after (exec (.intervalTimerExpiry 0) (running.setRank 0 { readyRank with balance := 8 }))
      (fun t => (t.rank 0).balance == 8 && t.counters.overrun == 1 && t.deviceFlags == 0x01 && alert t &&
        readIndex t 0x28 == 0x21) = true := by decide

theorem test_pauseExpiry :
    after (exec (.pauseTimerExpiry 1) State.reset)
      (fun t => (t.rank 1).state == .wake && (t.rank 1).wakeCount == 8) = true := by decide

theorem test_rowOpenExpiry :
    after (exec (.rowOpenTimerExpiry 0)
        (running.setRank 0 { readyRank with activity := .rowOpen, openRow := some 3, rowOpenTimer := some 1 }))
      (fun t => (t.rank 0).closeDue && (t.rank 0).openRow == some 3) = true := by decide

/-! ### Resets -/

/-- Section 11.6: queued and READY work freed, ISSUED work orphaned. -/
theorem test_portReset :
    after (exec (.portResetAssert 0)
        (withTable [{ entryOf 3 0 .fetch with state := .issued },
          { readyOf (entryOf 5 0 .fetch) none twoWords with leftover := true, addr := 0x2000 }]))
      (fun t => t.table.map (fun e => (e.slot, e.orphan)) == [(3, true)] &&
        t.counters.suppressedPoison == 1 && (t.port 0).flags == 0) = true := by decide

theorem test_portResetRelease :
    after (exec (.portResetRelease 0) (running.setPort 0 { running.port 0 with resetLine := true }))
      (fun t => t == running) = true := by decide

theorem test_powerOnAssert :
    after (exec .powerOnResetAssert (withTable [entryOf 0 0 .fetch]))
      (fun t => t.table == [] && t.powerOnAsserted && acknowledges t 0x3A == false) = true := by decide

/-- Section 11.1, step 2: both ranks read presence code 2; the pin chooses 0x3B. -/
theorem test_powerOnRelease :
    after (exec (.powerOnResetRelease true 2 2) State.reset)
      (fun t => readIndex t 0x28 == 0x20 && readIndex t 0x2D == 0x20 && readIndex t 0x00 == 0x44 &&
        acknowledges t 0x3B) = true := by decide

theorem test_warmReset :
    after (exec .warmReset (withTable [entryOf 0 0 .fetch]))
      (fun t => t.table == [] && t.deviceFlags == 0x40 && t.warm == .idle && (t.port 0).mode == .off &&
        t.memory == listed) = true := by decide

/-! ### Management commands and registers -/

theorem test_enable :
    after (exec (.enable 3) State.reset) (fun t => readIndex t 0x21 == 1) = true := by decide

theorem test_drain :
    after (exec (.drain 1) running) (fun t => (t.port 1).mode == .quiet) = true ∧
      after (exec (.drain 1) (holding 1)) (fun t => (t.port 1).mode == .draining) = true := by decide

theorem test_revoke :
    after (exec (.revoke 1) (holding 1))
      (fun t => (t.port 1).hold == none && (t.port 1).record.cause == .revoked) = true := by decide

theorem test_refreshPause_and_resume :
    after (exec .refreshPause running) (fun t => readIndex t 0x05 == 1) = true ∧
      after (exec .refreshResume { running with sched := { running.sched with refreshPaused := true } })
        (fun t => readIndex t 0x05 == 0) = true := by decide

theorem test_clearDoubt :
    after (exec (.clearDoubt 0) (running.setRank 0 { readyRank with doubt := true }))
      (fun t => readIndex t 0x28 == 0x20) = true := by decide

theorem test_clearCounters :
    after (exec .clearCounters { running with counters := { zeroDeviceCounters with overrun := 3 } })
      (fun t => t.counters == zeroDeviceCounters) = true := by decide

theorem test_unknownCommand :
    after (exec (.unknownCommand 0x62) running) (fun t => t.deviceFlags == 0x80) = true := by decide

/-- Section 11.1, step 6. -/
theorem test_deviceFlagsWrite :
    after (exec (.deviceFlagsWrite 0x20) { running with deviceFlags := 0x21 })
      (fun t => t.deviceFlags == 0x01) = true := by decide

theorem test_windowWrites :
    after (exec (.windowStagingWrite 0 .limitLow 0x0F) State.reset)
      (fun t => readIndex t 0x32 == 0x0F && readIndex t 0x35 == 0x40 &&
        (t.window 0).active == offRecord &&
        after (exec (.windowControlWrite 0 0x02) t)
          (fun u => (u.window 0).active.limit == 0x000F && readIndex u 0x35 == 0x02)) = true := by decide

/-- The control byte: claimable, with the in-use flag for an entry, a queued PUT or a hold of the
window; the staged flag is `test_windowWrites`'s. -/
theorem test_controlByte_inUse :
    readIndex running 0x35 = 0x02 ∧ readIndex (withTable [entryOf 0 0 .fetch]) 0x35 = 0x82 ∧
      readIndex (queued 0 1) 0x35 = 0x82 ∧ readIndex (holding 3) 0x35 = 0x82 := by decide

theorem test_masks :
    after (exec (.deviceFlagMaskWrite 0xFE) { running with deviceFlags := 0x01 }) (fun t => !alert t) = true ∧
      after (exec (.eventMaskWrite 2 0xFF) running) (fun t => readIndex t 0x16 == 0x1F) = true := by decide

theorem test_registerWrite_adjusts :
    after (exec (.registerWrite 0x08 0xFF) running) (fun t => readIndex t 0x08 == 159) = true ∧
      after (exec (.registerWrite 0x10 0x00) running) (fun t => readIndex t 0x10 == 2) = true := by decide

theorem test_counterLowByteRead :
    after (exec (.counterLowByteRead (.row 0)) (running.setRank 0 { readyRank with rowCounter := 1000 }))
      (fun t => t.i2cSent == 0xE8 && readIndex t 0x27 == 0x03 && t.indexPointer == 0x27) = true := by decide

theorem test_frameBegin_overlaps :
    after (exec (.frameBegin 0) (running.setPort 0 { running.port 0 with answers := [.again 1] }))
      (fun t => answerOf 0 (exec (.fetch 0 9 0x1000 1) t) == some (.deny 9 .garbled)) = true := by decide

theorem test_answerSent :
    after (exec (.answerSent 0) (running.setPort 0 { running.port 0 with answers := [.again 1] }))
      (fun t => (t.port 0).answers == []) = true := by decide

theorem test_indexPointerSet :
    after (exec (.indexPointerSet 0x30) running) (fun t => t.indexPointer == 0x30) = true := by decide

theorem test_coded_answer : (Answer.deny 0x5A .window).bytes = [6, 8, 0x5A, 0, 0, 0x54] := by decide

/-! ### States and operands that meet the statements' hypotheses -/

/-- Port `p` of a state is judged by its header: every component holds by evaluation. -/
theorem test_meets_linkJudges : linkJudges running 0 ∧ linkJudges State.reset 3 :=
  ⟨⟨rfl, rfl, rfl, .inl rfl⟩, ⟨rfl, rfl, rfl, .inl rfl⟩⟩

theorem test_meets_IdleStep : State.reset.pending = [] := rfl

theorem test_meets_CommandsLeaveQueueAndMemory :
    ∃ t, exec (.counterLowByteRead (.row 0)) running = .next t := ⟨_, rfl⟩

theorem test_meets_PowerOnAssert : frameOf (.fetch 0 9 0 1) = some (0, 9) := rfl

theorem test_meets_PowerOnRelease :
    ((0 : RankId) = 0 ∧ (2 : BitVec 2) = 2 ∨ (0 : RankId) = 1 ∧ (2 : BitVec 2) = 0) ∧
      ((1 : RankId) = 0 ∧ (0 : BitVec 2) = 2 ∨ (1 : RankId) = 1 ∧ (0 : BitVec 2) = 0) := by decide

theorem test_meets_FramesDecodeEncode :
    WellFormed (.put 3 9 0x1008 1 [oneWord]) = true ∧
      (bytesOfFrame (.put 3 9 0x1008 1 [oneWord])).isSome = true ∧
      (headerBytes 1 4 0x5A 0x00100040)[7]? ≠ some 0x0E := by decide

theorem test_meets_RegisterWritesDecodeEncode :
    WellFormed (.registerWrite 0xFF 1) = true ∧ writeOfCommand (.registerWrite 0xFF 1) = some (0xFF, 1) ∧
      writeOfCommand (.enable 3) = some (4, 0x13) ∧ writeOfCommand (.clearDoubt 1) = some (4, 0x61) ∧
      Register.pullIn ≠ .unassigned := by decide

theorem test_meets_AnswerFramesAreChecked :
    twoWords.length ≤ 16 ∧ (Answer.data 9 twoWords).bytes.getD 3 0 = 0x02 := by decide

/-- The lowest window that contains an address decides, also when it allows nothing. -/
theorem test_meets_LowestWindowDecides :
    decodeWindow running 3 .claim 0xFFFFFFF8 = some 0 ∧
      decodeWindow { running with windows := running.windows.set 0 offWindow } 3 .fetch 0 = none := by decide

/-- The last word of rank 0, the first of rank 1, its last, and the first address past it. -/
theorem test_meets_MemoryMapPlacesAddresses :
    placeOf running 0x07FFFFF8 = some { rank := 0, row := 16383 } ∧
      placeOf running 0x08000000 = some { rank := 1, row := 0 } ∧
      placeOf running 0x0FFFFFF8 = some { rank := 1, row := 16383 } ∧
      placeOf running 0x10000000 = none := by decide

theorem test_meets_CheckOrderRefuses_portOff :
    linkJudges (portsIn .off) 0 ∧ WellFormed (.drop 0 9 0 0) = true ∧
      refusable (.drop 0 9 0 0) = some (0, 9, 0) ∧ ((portsIn .off).port 0).mode = .off ∧
      ((portsIn .fault).port 0).mode = .fault :=
  ⟨⟨rfl, rfl, rfl, .inl rfl⟩, rfl, rfl, rfl, rfl⟩

/-- 16 words from an aligned block end on it; 17 words, or 16 from the next word, do not; 64 units
likewise. -/
theorem test_meets_CheckOrderRefuses_form :
    ¬ malformed (.fetch 0 9 0x80 16) ∧ malformed (.fetch 0 9 0x80 17) ∧
      malformed (.fetch 0 9 0x88 16) ∧ malformed (.fetch 0 9 0x84 1) ∧ malformed (.fetch 0 9 0x80 0) ∧
      ¬ malformed (.claim 0 9 0x1000 64) ∧ malformed (.claim 0 9 0x1040 64) ∧
      malformed (.drop 0 9 0x20 0) := by
  simp only [malformed]; decide

theorem test_meets_CheckOrderRefuses_newWork :
    ((portsIn .draining).port 0).mode = .draining ∧ ((portsIn .quiet).port 0).mode = .quiet ∧
      decodeWindow (portsIn .active) 0 .fetch 0x1000 = none ∧
      decodeWindow running 0 .fetch 0x10000000 = some 0 ∧ totalCapacity running = 0x10000000 ∧
      ((holding 0).port 0).hold ≠ none ∧ decodeWindow (holding 0) 0 .claim 0x2000 = some 0 ∧
      ((withTable [entryOf 0 0 .claim]).table.map fun e => (e.port, e.kind)) = [(0, .claim)] := by decide

theorem test_meets_FetchCreatesEntry :
    (running.port 0).mode = .active ∧ ¬ malformed (.fetch 0 9 0x1078 1) ∧
      (∀ e ∈ running.table, ¬ e.hasKey 0 .fetch 0x1078) ∧
      decodeWindow running 0 .fetch 0x1078 = some 0 ∧
      placeOf running 0x1078 = some { rank := 0, row := 0 } ∧ reserveAllows running 0 ∧
      (∀ e ∈ running.table, e.slot ≠ 0) ∧ ∀ m : Slot, m < 0 → ∃ e ∈ running.table, e.slot = m := by
  simp only [malformed, Entry.hasKey, reserveAllows]; decide

theorem test_meets_PutSyncCreatesEntry :
    ¬ malformed (.putSync 0 9 0x1078 1 [badWord]) ∧ [badWord].length = (1 : Byte).toNat ∧
      (∀ e ∈ running.table, ¬ e.hasKey 0 .putSync 0x1078) ∧
      decodeWindow running 0 .write 0x1078 = some 0 ∧
      placeOf running 0x1078 = some { rank := 0, row := 0 } ∧ reserveAllows running 0 := by
  simp only [malformed, Entry.hasKey, reserveAllows]; decide

/-- Entry 0 is taken, so the new claim gets number 1. -/
theorem test_meets_ClaimCreatesEntry :
    let s := withTable [entryOf 0 0 .fetch]
    ¬ malformed (.claim 0 9 0x1040 63) ∧ (∀ e ∈ s.table, ¬ (e.port = 0 ∧ e.kind = .claim)) ∧
      (s.port 0).hold = none ∧ decodeWindow s 0 .claim 0x1040 = some 0 ∧
      (0x1040 : Addr).toNat < totalCapacity s ∧ reserveAllows s 0 ∧ (∀ e ∈ s.table, e.slot ≠ 1) ∧
      ∀ m : Slot, m < 1 → ∃ e ∈ s.table, e.slot = m := by
  simp only [malformed, reserveAllows]; decide

/-- At the written limit, and with no entry to spare beside the shortfall of the other ports, there is no
room; with one to spare there is. -/
theorem test_meets_reserveAllows_boundary :
    let s (n limit : Nat) : State :=
      (withTable ((List.range n).map fun i => entryOf (Fin.ofNat 16 i) 0 .fetch)).setPort 0
        { running.port 0 with limit := BitVec.ofNat 8 limit }
    ¬ reserveAllows (s 6 6) 0 ∧ reserveAllows (s 5 6) 0 ∧ reserveAllows (s 9 15) 0 ∧
      ¬ reserveAllows (s 10 15) 0 := by
  simp only [reserveAllows]; decide

theorem test_meets_PutIsTakenOrTurnedAway_full :
    linkJudges (queued 0 8) 0 ∧ ((queued 0 8).port 0).mode = .active ∧
      ¬ malformed (.put 0 9 0x1000 1 [oneWord]) ∧ 8 ≤ ((queued 0 8).port 0).queue.length ∧
      decodeWindow (queued 0 8) 0 .write 0x1000 = some 0 ∧
      placeOf (queued 0 8) 0x1000 = some { rank := 0, row := 0 } :=
  ⟨⟨rfl, rfl, rfl, .inl rfl⟩, rfl, by simp only [malformed]; decide, by decide, by decide, by decide⟩

/-- The last byte of another port's hold, and of its pending claim. -/
theorem test_meets_PutIsTakenOrTurnedAway_heldBack :
    foreignHoldMeets (holding 1) 0 (wordSpan 0x1078 1) ∧
      ∃ c ∈ (withTable [entryOf 0 1 .claim]).table,
        fences (withTable [entryOf 0 1 .claim]) 0 (wordSpan 0x1078 1) c :=
  ⟨⟨1, aHold, by decide, rfl, 0x107F, by simp only [Span.mem]; decide, by simp only [Span.mem]; decide⟩,
    entryOf 0 1 .claim, by decide, rfl, rfl, by decide, 0x107F, by simp only [Span.mem]; decide,
    by simp only [Span.mem]; decide, by intro h hh; cases hh⟩

/-- The first word past another port's hold; 7 PUTs leave one place. -/
theorem test_meets_PutIsTakenOrTurnedAway_taken :
    ¬ (foreignHoldMeets (holding 1) 0 (wordSpan 0x1080 1) ∨
        ∃ c ∈ (holding 1).table, fences (holding 1) 0 (wordSpan 0x1080 1) c) ∧
      ((queued 0 7).port 0).queue.length < 8 := by
  refine ⟨?_, by decide⟩
  rintro (⟨q, h, hq, hh, x, h1, h2⟩ | ⟨c, hc, _⟩)
  · have : q = 1 ∧ h = aHold := by
      revert hh
      fin_cases q <;> intro hh <;> cases hh
      exact ⟨rfl, rfl⟩
    obtain ⟨rfl, rfl⟩ := this
    simp only [Span.mem, wordSpan, Hold.span, unitSpan, Span.stop, aHold] at h1 h2
    have : (0x1080 : Addr).toNat = 4224 := rfl
    have : (0x1000 : Addr).toNat = 4096 := rfl
    omega
  · cases hc

/-- A READY FETCH of port 0, and its form as a leftover. -/
def readyFetch : Entry :=
  readyOf (entryOf 3 0 .fetch) none twoWords

/-- The entry as a leftover. -/
def leftover : Entry :=
  { readyFetch with leftover := true }

/-- A FETCH of port 0 at the second word. -/
def nextFetch : Entry :=
  { entryOf 4 0 .fetch with addr := 0x1008 }

/-- A READY FETCH of 2 words asked for as 2 words: nothing is left. -/
theorem test_meets_FetchDelivers_all :
    keyLaw (withTable [readyFetch]) ∧ readyFetch ∈ (withTable [readyFetch]).table ∧
      readyFetch.hasKey 0 .fetch 0x1000 ∧ readyFetch.orphan = false ∧ readyFetch.state = .ready ∧
      agreesWith (.fetch 0 9 0x1000 2) readyFetch ∧ ¬ malformed (.fetch 0 9 0x1000 2) ∧
      readyFetch.readData.drop 2 = [] := by
  simp only [keyLaw, slotsDistinct, Entry.hasKey, agreesWith, malformed]; decide

/-- A leftover asked for as 1 word, with a neighbour at the next word and without one. -/
theorem test_meets_FetchDelivers_part :
    keyLaw (withTable [leftover, nextFetch]) ∧ agreesWith (.fetch 0 9 0x1000 1) leftover ∧
      leftover.readData.drop 1 ≠ [] ∧ nextFetch.hasKey 0 .fetch (addWords 0x1000 1) ∧
      nextFetch.orphan = false ∧
      ∀ f ∈ (withTable [leftover]).table, ¬ (f.hasKey 0 .fetch (addWords 0x1000 1) ∧ f.orphan = false) := by
  simp only [keyLaw, slotsDistinct, Entry.hasKey, agreesWith]; decide

theorem test_meets_ResultsAreCollected_putSync :
    let w := readyOf (entryOf 3 0 .putSync) (some true) []
    keyLaw (withTable [w]) ∧ w.hasKey 0 .putSync 0x1000 ∧ w.state = .ready ∧ w.orphan = false ∧
      matchedKind (.putSync 0 9 0x1000 2 [oneWord, oneWord]) = some .putSync := by
  simp only [keyLaw, slotsDistinct, Entry.hasKey]; decide

theorem test_meets_ResultsAreCollected_claim :
    let c := readyOf (entryOf 3 0 .claim) (some true) []
    let d := readyOf (entryOf 3 0 .claim) (some false) []
    keyLaw (withTable [c]) ∧ c.hasKey 0 .claim 0x1000 ∧ agreesWith (.claim 0 9 0x1000 2) c ∧
      c.result = some true ∧ keyLaw (withTable [d]) ∧ d.result ≠ some true := by
  simp only [keyLaw, slotsDistinct, Entry.hasKey, agreesWith]; decide

/-- Data that agree byte for byte where the mask is set, the parity bit apart. -/
theorem test_meets_ResultsAreCollected_agrees :
    agreesWith (.putSync 0 9 0x1000 2 [oneWord, badWord]) (entryOf 3 0 .putSync) := by
  refine ⟨rfl, rfl, fun j h w hh hw x => ?_⟩
  match j with
  | 0 => cases hh; cases hw; revert x; decide
  | 1 => cases hh; cases hw; revert x; decide
  | _ + 2 => cases hh

theorem test_meets_MatchedRequestsLeaveTheEntry :
    let e := entryOf 3 0 .fetch
    keyLaw (withTable [e]) ∧ e.hasKey 0 .fetch 0x1000 ∧ agreesWith (.fetch 0 9 0x1000 2) e ∧
      ¬ agreesWith (.fetch 0 9 0x1000 1) e ∧ e.state ≠ .ready := by
  simp only [keyLaw, slotsDistinct, Entry.hasKey, agreesWith]; decide

theorem test_meets_MatchedRequestsLeaveTheEntry_orphan :
    let o := { entryOf 3 0 .fetch with state := .issued, orphan := true }
    keyLaw (withTable [o]) ∧ o ∈ (withTable [o]).table ∧ o.hasKey 0 .fetch 0x1000 ∧
      ∀ f ∈ (withTable [o]).table, f.hasKey 0 .fetch 0x1000 → f.orphan = true := by
  simp only [keyLaw, slotsDistinct, Entry.hasKey]; decide

/-- A port at its limit of 6. -/
def fullPort : State :=
  withTable ((List.range 6).map fun i =>
    { entryOf (Fin.ofNat 16 i) 0 .fetch with addr := 0x2000 + BitVec.ofNat 32 (128 * i) })

theorem test_meets_NoRoom_full :
    linkJudges fullPort 0 ∧ (fullPort.port 0).mode = .active ∧ ¬ malformed (.claim 0 9 0x1000 1) ∧
      (∀ e ∈ fullPort.table, ¬ e.hasKey 0 .claim 0x1000) ∧ (fullPort.port 0).hold = none ∧
      (∀ e ∈ fullPort.table, ¬ (e.port = 0 ∧ e.kind = .claim)) ∧
      decodeWindow fullPort 0 .claim 0x1000 = some 0 ∧
      placeOf fullPort 0x1000 = some { rank := 0, row := 0 } ∧ ¬ reserveAllows fullPort 0 ∧
      ∀ e ∈ fullPort.table, e.port = 0 → e.leftover = false := by
  refine ⟨⟨rfl, rfl, rfl, .inl rfl⟩, ?_⟩
  simp only [malformed, Entry.hasKey, reserveAllows]; decide

/-- Two leftovers of port 1, which is at its limit of 2 (section 11.3). -/
def twoLeftovers : State :=
  (withTable
      [{ leftover with slot := 4, port := 1, addr := 0x00300020 },
        { leftover with slot := 2, port := 1, addr := 0x00301050 }]).setPort 1
    { running.port 1 with limit := 2 }

/-- Section 11.3: the older of two leftovers is reclaimed, for each kind of request. -/
theorem test_meets_NoRoom_reclaim :
    let s := twoLeftovers
    linkJudges s 1 ∧ slotsDistinct s ∧ ¬ reserveAllows s 1 ∧
      (∃ e younger, s.table = [] ++ e :: younger ∧ e.port = 1 ∧ e.leftover = true) ∧
      (∀ k, ∀ e ∈ s.table, ¬ e.hasKey 1 k 0x00302000) ∧ (s.port 1).hold = none ∧
      (∀ e ∈ s.table, ¬ (e.port = 1 ∧ e.kind = .claim)) ∧
      (∀ k, decodeWindow s 1 k 0x00302000 = some 0) ∧
      placeOf s 0x00302000 = some { rank := 0, row := 385 } ∧
      WellFormed (.putSync 1 9 0x00302000 1 [oneWord]) = true ∧
      ¬ malformed (.fetch 1 9 0x00302000 1) ∧ ¬ malformed (.claim 1 9 0x00302000 1) ∧
      ¬ malformed (.putSync 1 9 0x00302000 1 [oneWord]) := by
  refine ⟨⟨rfl, rfl, rfl, .inl rfl⟩, by simp only [slotsDistinct]; decide,
    by simp only [reserveAllows]; decide, ⟨_, _, rfl, rfl, rfl⟩,
    by simp only [Entry.hasKey]; intro k; cases k <;> decide, rfl, by decide,
    by intro k; cases k <;> rfl, by decide, by decide, ?_⟩
  simp only [malformed]; decide

/-- The older leftover's marks leave unseen, and the new entry takes its number at the young end. -/
theorem test_reclaim :
    let reclaimed (t : State) : Bool :=
      t.table.map (·.slot) == [2, 4] && t.counters.suppressedPoison == 1 &&
        (t.port 1).counters.full == 0
    after (exec (.putSync 1 9 0x00302000 1 [oneWord]) twoLeftovers) reclaimed = true ∧
      after (exec (.claim 1 9 0x00302000 1) twoLeftovers)
        (fun t => reclaimed t && (t.port 1).hold.isSome) = true := by decide

theorem test_meets_DropReleasesTheHold :
    linkJudges (holding 1) 1 ∧ ((holding 1).port 1).hold = some aHold ∧ aHold.base = 0x1000 ∧
      (0x1000 : Addr).toNat % 64 = 0 ∧ claimLaw (holding 1) ∧
      (∀ h, ((holding 1).port 1).hold = some h → h.base ≠ 0x1040) ∧ (running.port 1).hold = none := by
  refine ⟨⟨rfl, rfl, rfl, .inl rfl⟩, rfl, rfl, by decide, ⟨by simp only [slotsDistinct]; decide, ?_⟩, ?_, rfl⟩
  · intro p; exact ⟨Nat.zero_le 1, fun e he => nomatch he⟩
  · intro h hh; cases hh; decide

theorem test_meets_GarbledFramesLeadToFault :
    frameOf (.garbledFrame 1 9) = some (1, 9) ∧ (running.port 1).receiving ≠ some .heldOff ∧
      (running.port 1).resetLine = false ∧ (running.port 1).mode ≠ .fault ∧
      (running.port 1).garbleCount < 3 ∧ ((portsIn .fault).port 1).mode = .fault ∧
      3 ≤ ((running.setPort 1 { running.port 1 with garbleCount := 3 }).port 1).garbleCount := by decide

theorem test_meets_FramesUnderResets :
    frameOf (.status 3 9 0 0) = some (3, 9) ∧
      ((running.setPort 3 { running.port 3 with resetLine := true }).port 3).resetLine = true ∧
      { running with powerOnAsserted := true }.powerOnAsserted = true ∧
      { running with warm := .closing }.warm ≠ .idle ∧ (running.port 3).receiving ≠ some .heldOff := by
  decide

theorem test_meets_LinkEventsMarkExchanges :
    ((running.setPort 0 { running.port 0 with answers := [.again 1, .again 2] }).port 0).answers =
      .again 1 :: [.again 2] := by decide

/-- The law of the claims from its parts that evaluation decides. -/
theorem claimLaw_of {s : State} (hs : (s.table.map (·.slot)).Nodup)
    (hone : ∀ p : Port, s.table.countP (fun e => e.port == p && e.kind == .claim) ≤ 1)
    (hqueued : ∀ e ∈ s.table, e.kind = .claim → e.state = .queued ∧ (s.port e.port).hold = none) :
    claimLaw s := by
  refine ⟨hs, fun p => ⟨hone p, fun e he hp hk => ?_⟩⟩
  subst hp
  have notReady : e.state ≠ .ready := by rw [(hqueued e he hk).1]; decide
  exact ⟨fun _ => (hqueued e he hk).2, fun hr => absurd hr notReady, fun hr => absurd hr notReady⟩

theorem test_meets_EvaluationGrantsAllItCan :
    claimLaw (withTable [entryOf 0 1 .claim, entryOf 1 2 .claim]) :=
  claimLaw_of (by decide) (by decide) (by decide)

theorem test_meets_HoldsEndByTimerOrRevoke :
    commandsTaken (holding 1) ∧ ((holding 1).port 1).hold = some aHold ∧ ((holding 1).port 0).hold = none ∧
      drainTested (holding 1) 0 ((holding 1).port 0).mode = ((holding 1).port 0).mode :=
  ⟨⟨rfl, rfl⟩, rfl, rfl, rfl⟩

theorem test_meets_PortsOfferTheirOldestWork :
    let e := entryOf 5 0 .fetch
    (withTable [e]).table = [] ++ e :: [] ∧ e.port = 0 ∧ mayIssue (withTable [e]) e ∧
      ((queued 0 1).port 0).queue = putNumber 1 :: [] ∧ (putNumber 1).inFlight = false ∧
      ((queued 0 1).rank (putNumber 1).place.rank).state = .ready ∧ (running.port 0).queue = [] := by
  refine ⟨rfl, rfl, ⟨rfl, by decide, ⟨_, rfl, rfl⟩, rfl, ?_, fun h => absurd h (by decide)⟩, rfl, rfl, rfl, rfl⟩
  rintro ⟨q, h, _, hh, _⟩
  revert hh; fin_cases q <;> intro hh <;> cases hh

/-- Forced by the threshold, forced in WAKE, due for closing, possible as a pull-in, and none. -/
theorem test_meets_DecisionsIssueRefreshesAndCloses :
    refreshForced (running.setRank 1 { readyRank with balance := 6 }) 1 ∧
      ¬ refreshForced (running.setRank 1 { readyRank with balance := 5 }) 1 ∧
      refreshForced (running.setRank 0 { readyRank with state := .wake, wakeCount := 1 }) 0 ∧
      closeDueNow (running.setRank 0
        { readyRank with activity := .rowOpen, openRow := some 3, closeDue := true }) 0 ∧
      pullInPossible (running.setRank 0 { readyRank with balance := -7 }) 0 ∧
      ¬ pullInPossible (running.setRank 0 { readyRank with balance := -8 }) 0 ∧
      (∀ p, accessCandidate running p = none) := by
  simp only [refreshForced, closeDueNow, pullInPossible]; decide

/-- The first port with work in the scan from the pointer; and a row hit of the streak's port. -/
theorem test_meets_DecisionsIssueAccesses :
    let s : State :=
      { withTable [entryOf 5 0 .fetch] with settings := { defaultSettings with pagePolicy := .close } }
    s.bus = none ∧ s.warm = .idle ∧ (∀ r, ¬ refreshForced s r) ∧ (∀ r, ¬ closeDueNow s r) ∧
      accessCandidate s 0 =
        some { port := 0, work := .entry 5, write := false, place := { rank := 0, row := 0 }
               base := 0x1000, words := 2 } ∧
      winsAccess s 0 := by
  refine ⟨rfl, rfl, by simp only [refreshForced]; decide, by simp only [closeDueNow]; decide, by decide, ?_⟩
  unfold winsAccess
  rw [if_neg (by decide)]
  refine ⟨by decide, fun q hq => ?_⟩
  revert q; decide

theorem test_meets_DecisionsIssueAccesses_hit :
    let s : State :=
      { (withTable [entryOf 5 0 .fetch]).setRank 0
          { readyRank with activity := .rowOpen, openRow := some 0, rowOpenTimer := some 1 } with
        sched := { defaultScheduler with streakPort := some 0, streakCount := 3 } }
    winsAccess s 0 := by
  unfold winsAccess
  rw [if_pos (by decide)]
  refine .inl ⟨rfl, _, rfl, rfl, rfl, ?_⟩
  rintro ⟨_, h⟩
  exact absurd h (by decide)

/-- A read in progress: of an entry, and of an orphan. -/
theorem test_meets_ReadsComplete :
    let e := { entryOf 5 0 .fetch with state := .issued }
    let a := accessOf (.entry 5) false 2
    slotsDistinct (withTable [e]) ∧ (during (withTable [e]) (.access a)).bus = some (.access a) ∧
      a.write = false ∧ a.base.toNat + 8 * a.words ≤ totalCapacity (withTable [e]) ∧
      e ∈ (withTable [e]).table ∧ a.work = .entry e.slot ∧ e.state = .issued ∧
      { e with orphan := true }.state = .issued := by
  simp only [slotsDistinct]; decide

theorem test_meets_CoherenceSearch :
    ∃ decided : Entry → Bool, ∀ e, decided e = true ↔
      e.kind = .fetch ∧ e.state = .ready ∧
        ∃ x, (wordSpan e.addr
            (if e.leftover = true then e.length
            else if e.kind = .fetch ∧ e.prefetch = true then (128 - e.addr.toNat % 128) / 8
            else e.length)).mem x ∧
          ∃ (j : Nat) (w : HeldWord) (i : Fin 8), (heldWordsOf [oneWord])[j]? = some w ∧
            (w.get i).mask = true ∧ 0x1000 + 8 * j ≤ x ∧ x < 0x1000 + 8 * j + 8 :=
  ⟨madeStale (writtenWords 0x1000 (heldWordsOf [oneWord])), madeStale_iff _ _⟩

theorem test_meets_WritesComplete :
    let e := { entryOf 5 0 .putSync with state := .issued }
    let a := accessOf .putHead true 1
    let b := accessOf (.entry 5) true 2
    slotsDistinct (queued 0 1) ∧ a.write = true ∧ ((queued 0 1).port a.port).queue = putNumber 1 :: [] ∧
      a.base.toNat + 8 * a.words ≤ totalCapacity (queued 0 1) ∧ slotsDistinct (withTable [e]) ∧
      b.work = .entry e.slot ∧ e ∈ (withTable [e]).table ∧ e.state = .issued ∧ b.write = true := by
  simp only [slotsDistinct]; decide

theorem test_meets_RefreshesComplete :
    (during running (.refresh 0 .pullIn)).bus = some (.refresh 0 .pullIn) ∧ RefreshClass.pullIn ≠ .wake ∧
      (during (running.setRank 0 { readyRank with state := .wake, wakeCount := 2 }) (.refresh 0 .wake)).bus =
        some (.refresh 0 .wake) := by decide

theorem test_meets_ClosesComplete :
    (during running (.close 0)).bus = some (.close 0) ∧ (during running (.close 0)).warm = .idle ∧
      { during running (.close 0) with warm := .closing }.warm = .closing ∧
      after (exec .decision (running.setRank 0
          { readyRank with activity := .rowOpen, openRow := some 3, closeDue := true }))
        (fun t => t.bus == some (.close 0)) = true := by decide

/-- Each kind of READY entry. -/
theorem test_meets_DiscardExpiry :
    let f := readyOf (entryOf 5 0 .fetch) none twoWords
    let w := readyOf (entryOf 6 1 .putSync) (some false) []
    let c := readyOf (entryOf 7 2 .claim) (some false) []
    let s := withTable [f, w, c]
    slotsDistinct s ∧ f ∈ s.table ∧ w ∈ s.table ∧ c ∈ s.table ∧
      ∀ e ∈ s.table, e.state = .ready ∧ e.discardTimer ≠ none := by
  simp only [slotsDistinct]; decide

theorem test_meets_IntervalExpiry :
    (running.rank 0).state = .ready ∧ (running.rank 0).intervalTimer ≠ none ∧ (running.rank 0).balance < 8 ∧
      8 ≤ ((running.setRank 0 { readyRank with balance := 8 }).rank 0).balance := by decide

/-- The rank that wakes is the lower that owes a refresh, or the other one in WAKE is. -/
theorem test_meets_PauseExpiry :
    refreshForced (State.reset.setRank 0 { readyRank with state := .wake, wakeCount := 1 }) 0 ∧
      ¬ refreshForced State.reset 0 ∧ (State.reset.rank 1).state = .pause ∧ (State.reset.rank 1).pauseTimer ≠ none ∧
      State.reset.powerOnAsserted = false ∧ State.reset.bus = none := by
  simp only [refreshForced]; decide

/-- An OPEN rank whose timer runs; and one whose timer runs while an ACCESS is in progress on it. -/
theorem test_meets_RowTimerExpiry :
    let c := { readyRank with activity := .rowOpen, openRow := some 0, rowOpenTimer := some 1 }
    let s := withTable [{ entryOf 5 0 .fetch with state := .issued }]
    let t := during (s.setRank 0 c) (.access (accessOf (.entry 5) false 2))
    (t.rank 0).rowOpenTimer ≠ none ∧ t.warm = .idle ∧
      after (exec (.rowOpenTimerExpiry 0) t) (fun u =>
        after (exec .accessReadComplete u) fun _ => true) = true := by decide

theorem test_meets_EnableAndDrain :
    commandsTaken running ∧ (running.port 1).mode = .active ∧ ((portsIn .quiet).port 1).mode = .quiet ∧
      (∀ e ∈ running.table, e.port ≠ 1) ∧ (running.port 1).queue = [] ∧ (running.port 1).hold = none ∧
      ((holding 1).port 1).hold ≠ none ∧ ((queued 1 1).port 1).queue ≠ [] := by
  refine ⟨⟨rfl, rfl⟩, ?_⟩; decide

theorem test_meets_RefusedWrites :
    WellFormed (.unknownCommand 0x63) = true ∧
      writeOfCommand (.unknownCommand 0x63) = some (Register.command.index, 0x63) ∧
      writeOfCommand .warmReset = some (Register.command.index, 0x80) ∧
      { running with warm := .waiting }.warm ≠ .idle ∧
      { running with powerOnAsserted := true }.powerOnAsserted = true := by decide

/-- Taken with the bus BUSY and FREE; past the clearing point with a row OPEN and with none. -/
theorem test_meets_WarmResetPhases :
    commandsTaken (during running (.close 0)) ∧ (during running (.close 0)).bus ≠ none ∧
      running.bus = none ∧
      (running.setRank 0 { readyRank with activity := .rowOpen, openRow := some 3 }).ranks.r0.activity =
        .rowOpen :=
  ⟨⟨rfl, rfl⟩, by decide, rfl, rfl⟩

theorem test_meets_registerWrites :
    running.powerOnAsserted = false ∧ hasOwnWriteRow 0x06 = false ∧ hasOwnWriteRow 0x13 = false ∧
      hasOwnWriteRow 0x88 = false ∧ running.warm ≠ .waiting := by decide

/-- A part at work: a READY FETCH of port 0 with its words, a QUEUED CLAIM of port 2 behind port 1's
hold, a PUT of port 1 queued over its own hold, and a FETCH of port 1 that awaits it. -/
def working : State :=
  { withTable
      [readyOf (entryOf 0 0 .fetch) none twoWords, entryOf 1 2 .claim,
        { entryOf 2 1 .fetch with fence := 1, fenceMet := false }] with
    ports := (queued 1 1).ports.set 1 { (queued 1 1).port 1 with hold := some aHold } }

theorem test_meets_StepKeeps_runs :
    ∃ t, step { working with pending := [.decision] } = .next t ∧ t ≠ working := by
  refine ⟨_, rfl, ?_⟩
  decide

theorem test_meets_StepKeepsMemoryRangesAndWindows :
    memoryLaw working ∧ rangeLaw working ∧ warmLaw working ∧ stagedLaw working := by
  simp only [memoryLaw, rangeLaw, warmLaw, stagedLaw]; decide

theorem test_meets_StepKeepsTheReserve : reserveLaw working := by
  simp only [reserveLaw]; decide

theorem test_meets_StepKeepsKeysAndDiscardTimers :
    keyLaw working ∧ timerLaw working ∧ leftoverLaw working := by
  simp only [keyLaw, timerLaw, leftoverLaw, slotsDistinct]; decide

theorem test_meets_StepKeepsPutQueuesAndFences : queueLaw working ∧ fenceLaw working := by
  have h : queueLaw working := ⟨by decide, fun a ha => nomatch ha⟩
  exact ⟨h, by simp only [slotsDistinct]; decide, h, by decide⟩

theorem holds_of_working {p : Port} {h : Hold} (hh : (working.port p).hold = some h) : p = 1 ∧ h = aHold := by
  revert hh
  fin_cases p <;> intro hh <;> cases hh
  exact ⟨rfl, rfl⟩

theorem test_meets_StepKeepsHoldsAndClaims :
    holdsDisjoint working ∧ claimLaw working ∧ claimStateLaw working := by
  refine ⟨fun p q h k hpq hp hq => ?_, claimLaw_of (by decide) (by decide) (by decide),
    by simp only [claimStateLaw]; decide⟩
  exact absurd ((holds_of_working hp).1.trans (holds_of_working hq).1.symm) hpq

/-- A READY CLAIM with granted = yes beside its hold, and one with granted = no beside none. -/
theorem test_meets_claimLaw_ready :
    let s : State :=
      { holding 1 with
        table := [readyOf (entryOf 0 1 .claim) (some true) [],
          readyOf (entryOf 1 2 .claim) (some false) []] }
    claimLaw s ∧ claimStateLaw s := by
  intro s
  refine ⟨⟨by simp only [slotsDistinct]; decide, fun p => ⟨by revert p; decide, ?_⟩⟩,
    by simp only [claimStateLaw]; decide⟩
  intro e he
  rcases List.mem_cons.mp he with rfl | he
  · rintro rfl _
    exact ⟨fun h => (nomatch h), fun _ _ => ⟨aHold, rfl, rfl, rfl, rfl⟩, fun _ h => absurd rfl h⟩
  · rcases List.mem_singleton.mp he with rfl
    rintro rfl _
    exact ⟨fun _ => rfl, fun _ h => (by cases h), fun _ _ => rfl⟩

theorem test_meets_StepKeepsExclusion : exclusionLaw working := by
  intro p q h hpq hp
  obtain ⟨rfl, rfl⟩ := holds_of_working hp
  exact ⟨by revert q; decide, fun a ha => nomatch ha⟩

theorem test_meets_StepKeepsPortStates : portStateLaw working := by
  simp only [portStateLaw, claimStateLaw, slotsDistinct]; decide

theorem test_meets_StepKeepsBalancesAndOpenRows : balanceLaw working ∧ rowLaw working := by
  refine ⟨⟨by decide, by decide, fun r k hb => nomatch hb⟩, fun r => ?_⟩
  refine ⟨⟨fun h => ?_, fun ⟨x, hx, _⟩ => nomatch hx⟩, ?_, ?_, ?_, ?_, ?_, ?_,
    (fun k hb => nomatch hb), (fun hb => nomatch hb), fun a hb => nomatch hb⟩
  · revert h; fin_cases r <;> intro h <;> cases h
  all_goals revert r; decide

theorem test_meets_StepNeverStops : fitLaw working ∧ leftoverLaw working := by
  refine ⟨⟨by simp only [slotsDistinct]; decide, ?_, ?_, fun a ha => nomatch ha⟩,
    by simp only [leftoverLaw]; decide⟩
  · simp only [wordsFit]; decide
  · simp only [wordsFit]; decide

theorem test_meets_StepKeepsCoherence : coherenceLaw working :=
  ⟨test_meets_StepNeverStops.1, test_meets_StepNeverStops.2, by decide, fun a ha => nomatch ha⟩

theorem test_meets_DeliveredWordsAreCurrent :
    linkJudges working 0 ∧
      answerOf 0 (exec (.fetch 0 9 0x1000 2) working) = some (.data 9 twoWords) :=
  ⟨⟨rfl, rfl, rfl, .inl rfl⟩, by decide⟩

end Sys2Proof.Tests
end

section
/-! PROOF. STATUS (R31): what clearing the events leaves, the STATUS rule as a function of the port unit
alone, and the statement about it. -/

namespace Sys2Proof.Machine

theorem clearEvents_eq (s : State) (p : Port) :
    clearEvents s p = s.setPort p { s.port p with flags := 0, record := emptyRecord } := rfl

/-- STATUS past the header check (R31, R165). The rule never reads the port's mode, so one equation
covers OFF, ACTIVE, DRAINING, QUIET and FAULT. -/
theorem judgeStatus_eq (s : State) (p : Port) (tag : Byte) :
    judgeStatus p tag s =
      s.setPort p
        (({ (s.port p).headerPassed with flags := 0, record := emptyRecord } : PortUnit).answered
          (.state tag (s.port p).flags (s.port p).record)) := by
  have hflags : (s.port p).headerPassed.flags = (s.port p).flags := rfl
  have hrecord : (s.port p).headerPassed.record = (s.port p).record := rfl
  simp only [judgeStatus, passHeader_eq, clearEvents_eq, reply_eq, State.setPort_port_same,
    State.setPort_setPort, hflags, hrecord]

/-- Address and length of a STATUS frame are not examined (R151). -/
theorem exec_status_judged {s : State} {p : Port} (h : linkJudges s p) (tag : Byte) (addr : Addr)
    (len : Byte) : exec (.status p tag addr len) s = .next (judgeStatus p tag s) := by
  change execStatus p tag addr len s = _
  rw [execStatus, endFrame_judged h]

/-- Settles O13: the link judges the frame, and the STATUS rule is one equation for all port states. -/
theorem statusReturnsAndClears : Obligations.StatusReturnsAndClears := by
  unfold Obligations.StatusReturnsAndClears
  intro s p tag addr len h
  rw [exec_status_judged h, judgeStatus_eq, emptyRecord]

end Sys2Proof.Machine
end

section
/-! PROOF. The memory map (R72 to R75): the capacities in closed form, the place of an address as an
equivalence, and the statement about it. -/

namespace Sys2Proof.Machine

/-- Codes 1 to 3 stand for 2^26, 2^27 and 2^28 bytes (R72). -/
theorem capacityOf_eq (code : BitVec 2) :
    capacityOf code = if code = 0 then 0 else 2 ^ (25 + code.toNat) := by
  revert code
  decide

/-- A rank holds whole rows (R72, R74). -/
theorem rowSize_dvd_capacityOf (code : BitVec 2) : 8192 ∣ capacityOf code := by
  revert code
  decide

theorem row_lt_rowsOf {code : BitVec 2} {offset : Nat} (h : offset < capacityOf code) :
    offset / 8192 < rowsOf code :=
  Nat.div_lt_div_of_lt_of_dvd (rowSize_dvd_capacityOf code) h

/-- The layout of R73 in offsets: an address is its offset in rank 0, or rank 0's capacity plus its
offset in rank 1. -/
theorem placeOf_eq_some_iff (s : State) (addr : Addr) (place : Place) :
    placeOf s addr = some place ↔
      ∃ offset, offset / 8192 = place.row ∧
        ((place.rank = 0 ∧ addr.toNat = offset ∧ offset < capacityOf (s.rank 0).presence) ∨
          (place.rank = 1 ∧ addr.toNat = capacityOf (s.rank 0).presence + offset ∧
            offset < capacityOf (s.rank 1).presence)) := by
  obtain ⟨rank, row⟩ := place
  have htotal : totalCapacity s =
      capacityOf (s.rank 0).presence + capacityOf (s.rank 1).presence := rfl
  simp only [placeOf]
  constructor
  · intro h
    split_ifs at h with hlow hhigh
    · cases h
      exact ⟨_, rfl, .inl ⟨rfl, rfl, hlow⟩⟩
    · cases h
      exact ⟨_, rfl, .inr ⟨rfl, by omega, by omega⟩⟩
  · rintro ⟨offset, rfl, ⟨rfl, haddr, hlt⟩ | ⟨rfl, haddr, hlt⟩⟩
    · rw [if_pos (by omega), haddr]
    · rw [if_neg (by omega), if_pos (by omega), haddr, Nat.add_sub_cancel_left]

theorem row_lt_rowsOf_of_placeOf {s : State} {addr : Addr} {place : Place}
    (h : placeOf s addr = some place) : place.row < rowsOf (s.rank place.rank).presence := by
  obtain ⟨offset, hrow, ⟨hrank, -, hlt⟩ | ⟨hrank, -, hlt⟩⟩ := (placeOf_eq_some_iff s addr place).mp h
  all_goals
    rw [← hrow, hrank]
    exact row_lt_rowsOf hlt

/-- Settles O11: with the capacities in closed form, the bound of the map is `placeOf_eq_none` and the
place is `placeOf_eq_some_iff`. -/
theorem memoryMapPlacesAddresses : Obligations.MemoryMapPlacesAddresses := by
  unfold Obligations.MemoryMapPlacesAddresses
  intro s addr place
  simp only [← capacityOf_eq]
  exact ⟨placeOf_eq_none s addr,
    fun h => ⟨row_lt_rowsOf_of_placeOf h, (placeOf_eq_some_iff s addr place).mp h⟩⟩

end Sys2Proof.Machine
end

section
/-! PROOF. The grant of a CLAIM (R81): when older entries leave it free, and the statement about the five
conditions. -/

namespace Sys2Proof.Machine

/-- An older entry of another port bars a grant as a QUEUED CLAIM or as a PUT_SYNC still to be written;
a FETCH never does (R81). -/
theorem barsGrant_eq_false_iff (p : Port) (a : Span) (e : Entry) :
    barsGrant p a e = false ↔
      (e.port ≠ p → e.kind = .claim → e.state = .queued → ¬ e.claimSpan.meets a) ∧
        (e.port ≠ p → e.kind = .putSync → e.state ≠ .ready → ¬ e.accessSpan.meets a) := by
  cases hkind : e.kind <;> simp [barsGrant, hkind, Span.overlaps_eq_false_iff]

/-- The bar of the older entries parts into the two conditions of R81 about them. -/
theorem forall_barsGrant_eq_false_iff (p : Port) (a : Span) (older : List Entry) :
    (∀ e ∈ older, barsGrant p a e = false) ↔
      (∀ e ∈ older, e.port ≠ p → e.kind = .claim → e.state = .queued → ¬ e.claimSpan.meets a) ∧
        (∀ e ∈ older, e.port ≠ p → e.kind = .putSync → e.state ≠ .ready →
          ¬ e.accessSpan.meets a) := by
  simp only [barsGrant_eq_false_iff, forall_and]

/-- Settles O26: `grantable_iff`, with its condition on the older entries parted in two. -/
theorem grantConditions : Obligations.GrantConditions := by
  unfold Obligations.GrantConditions
  intro s c older
  rw [grantable_iff, forall_barsGrant_eq_false_iff, and_assoc]
  exact Iff.rfl

end Sys2Proof.Machine
end

section
/-! PROOF. The completion of a CLOSE (R133): what a completion keeps in every phase of a warm reset, the
test for the warm reset's end as an equation per outcome, what a decision puts on the bus, and the
statement about it. -/

namespace Sys2Proof.Machine

/-! ### The warm reset at a completion -/

/-- Past the clearing point a completion changes nothing while the test for the end fails (R183). -/
theorem warmStep_closing_open {s : State} (h : s.warm = .closing) (hrows : rowsClosed s = false) :
    warmStep s = s := by
  rw [warmStep_closing h]
  exact if_neg fun hend => Bool.eq_false_iff.mp hrows hend.2

/-- Past the clearing point the completion at which the test holds ends the warm reset (R183). -/
theorem warmStep_closing_closed {s : State} (h : s.warm = .closing) (hrows : rowsClosed s = true) :
    warmStep s =
      { s with
        warm := .idle
        ports := s.ports.map freshenLink
        deviceFlags := s.deviceFlags ||| 0x40 } := by
  rw [warmStep_closing h]
  exact if_pos ⟨h, hrows⟩

/-- The test for the end of a warm reset leaves ranks, bus and memory alone, whatever it finds (R183). -/
theorem endWarmReset_frame (s : State) :
    (endWarmReset s).ranks = s.ranks ∧ (endWarmReset s).bus = s.bus ∧
      (endWarmReset s).memory = s.memory := by
  unfold endWarmReset
  split <;> exact ⟨rfl, rfl, rfl⟩

/-- In every phase, the clearing point included (R182), a completion's warm-reset step leaves ranks, bus
and memory alone. -/
theorem warmStep_frame (s : State) :
    (warmStep s).ranks = s.ranks ∧ (warmStep s).bus = s.bus ∧ (warmStep s).memory = s.memory := by
  unfold warmStep
  split
  · exact endWarmReset_frame (clearAll s)
  · exact endWarmReset_frame s

/-! ### What a decision puts on the bus -/

/-- The operation that the issue of a choice puts on the bus (R96, R98). -/
def Choice.busOp (s : State) : Choice → BusOp
  | .refresh r k => .refresh r k
  | .close r => .close r
  | .access c => .access (accessOf s c)

theorem issue_bus (s : State) (x : Choice) : (issue s x).bus = some (x.busOp s) := by
  cases x with
  | refresh r k => cases k <;> rfl
  | close r => rfl
  | access c => rfl

theorem makeDecision_winner {s : State} {x : Choice} (hbus : s.bus = none)
    (hpower : s.powerOnAsserted = false) (hx : winner s = some x) : makeDecision s = issue s x := by
  simp [makeDecision, mayDecide, hbus, hpower, hx]

/-- A decision issues a choice or changes nothing (R99). -/
theorem makeDecision_cases (s : State) :
    makeDecision s = s ∨ ∃ x, makeDecision s = issue s x := by
  unfold makeDecision
  split
  · split
    next x _ => exact .inr ⟨x, rfl⟩
    next => exact .inl rfl
  · exact .inl rfl

/-- A CLOSE that a decision put on a FREE bus was issued by it. -/
theorem makeDecision_close {s : State} {r : RankId} (hbus : s.bus = none)
    (hclose : (makeDecision s).bus = some (.close r)) : makeDecision s = issueClose s r := by
  obtain hsame | ⟨x, hissue⟩ := makeDecision_cases s
  · rw [hsame, hbus] at hclose
    cases hclose
  · rw [hissue, issue_bus, Option.some_inj] at hclose
    cases x <;> cases hclose
    exact hissue

/-- The issue of a CLOSE clears the row, its timer and its mark (R128). -/
theorem issueClose_rank (s : State) (r : RankId) :
    (issueClose s r).rank r = rankForRefresh (s.rank r) :=
  State.setRank_rank_same _ _ _

/-! ### CLOSE_COMPLETE -/

theorem exec_closeComplete {s : State} {r : RankId} (hbus : s.bus = some (.close r)) :
    exec .closeComplete s =
      .next (warmStep { s.setRank r { s.rank r with activity := .idle } with bus := none }) := by
  change execCloseComplete s = _
  rw [execCloseComplete, hbus]
  rfl

theorem freshenLink_hold (s : State) (p : Port) :
    ((s.ports.map freshenLink).get p).hold = (s.port p).hold := by
  rw [PerPort.get_map]
  rfl

/-- Settles O36: the completion is `warmStep` of the closed state, so the phases of the warm reset decide
what else it does; the issue that began the CLOSE is `makeDecision_close`. -/
theorem closesComplete : Obligations.ClosesComplete := by
  unfold Obligations.ClosesComplete
  intro s r hbus closed
  have hexec : exec .closeComplete s = .next (warmStep closed) := exec_closeComplete hbus
  obtain ⟨hranks, hfree, hmemory⟩ := warmStep_frame closed
  have hrank : ∀ x, (warmStep closed).rank x = closed.rank x := State.rank_congr hranks
  refine ⟨⟨_, hexec, rfl, ?_, fun x hx => ?_, hfree, hmemory⟩, fun hidle => ?_,
    fun hclosing => ⟨?_, ?_⟩, ?_⟩
  · rw [hrank]
    exact PerRank.get_set_same _ _ _
  · rw [hrank]
    exact PerRank.get_set_ne _ _ hx
  · rw [hexec, warmStep_idle (s := closed) hidle]
  · intro hopen
    rw [hexec, warmStep_closing_open (s := closed) hclosing (rowsClosed_eq_false (.inr hopen))]
  · intro hnone
    have hrows : rowsClosed closed = true :=
      rowsClosed_eq_true
        (not_or.mpr ⟨not_not.mpr rfl, fun ⟨x, hready, hopen⟩ => hnone x hready hopen⟩)
    refine ⟨_, hexec, ?_⟩
    rw [warmStep_closing_closed (s := closed) hclosing hrows]
    exact ⟨rfl, rfl, rfl, rfl, rfl, rfl, freshenLink_hold s⟩
  · intro x t hfreeBus hdecision hclose
    cases hdecision
    rw [makeDecision_close hfreeBus hclose, issueClose_rank]
    exact ⟨rfl, rfl, rfl⟩

end Sys2Proof.Machine
end

section
/-! PROOF. The end of a rank's PAUSE (R118): the rank in WAKE owes a forced refresh, and a decision issues
the forced refresh of the lowest rank that owes one. -/

namespace Sys2Proof.Machine

/-- A rank that owes a forced refresh is a class (a) candidate (R100). -/
theorem exists_forcedCandidate {s : State} {r : RankId} (h : refreshForced s r) :
    ∃ k, forcedCandidate s r = some k :=
  h.elim (fun hready => ⟨_, forcedCandidate_ready h hready.1⟩)
    fun hwake => ⟨_, forcedCandidate_wake h hwake.1⟩

/-- Class (a) comes first, and the lower rank within it (R104). -/
theorem winner_of_lowest_refreshForced {s : State} {r : RankId} (h : refreshForced s r)
    (hlowest : ∀ x, x < r → ¬ refreshForced s x) : ∃ k, winner s = some (.refresh r k) := by
  obtain ⟨k, hk⟩ := exists_forcedCandidate h
  refine ⟨k, ?_⟩
  match r with
  | 0 => rw [winner, hk]
  | 1 => rw [winner, forcedCandidate_none (hlowest 0 (by decide)), hk]

theorem exists_lowest_refreshForced {s : State} {r : RankId} (h : refreshForced s r) :
    ∃ x, x ≤ r ∧ refreshForced s x ∧ ∀ y, y < x → ¬ refreshForced s y := by
  obtain ⟨x, hle, hmin⟩ := exists_minimal_le_of_wellFoundedLT (refreshForced s) r h
  exact ⟨x, hle, hmin.prop, fun y hy => hmin.not_prop_of_lt hy⟩

/-- With the bus FREE, a decision taken while rank `r` owes a forced refresh issues one, of the lowest
rank that owes one (R99, R100, R104). -/
theorem exec_decision_refreshForced {s : State} {r : RankId} (hpower : s.powerOnAsserted = false)
    (hbus : s.bus = none) (h : refreshForced s r) :
    ∃ x k u, exec .decision s = .next u ∧ x ≤ r ∧ refreshForced s x ∧
      (∀ y, y < x → ¬ refreshForced s y) ∧ u.bus = some (.refresh x k) := by
  obtain ⟨x, hle, hx, hlowest⟩ := exists_lowest_refreshForced h
  obtain ⟨k, hk⟩ := winner_of_lowest_refreshForced hx hlowest
  refine ⟨x, k, makeDecision s, rfl, hle, hx, hlowest, ?_⟩
  rw [makeDecision_winner hbus hpower hk, issue_bus]
  rfl

theorem exec_pauseTimerExpiry {s : State} {r : RankId} (hpause : (s.rank r).state = .pause)
    (htimer : (s.rank r).pauseTimer ≠ none) :
    exec (.pauseTimerExpiry r) s = .next (s.setRank r (wakeRank (s.rank r))) :=
  if_pos ⟨hpause, Option.isSome_iff_ne_none.mpr htimer⟩

/-- A rank that has just left PAUSE owes its initialization refreshes (R100, R118). -/
theorem refreshForced_wakeRank (s : State) (r : RankId) :
    refreshForced (s.setRank r (wakeRank (s.rank r))) r := by
  unfold refreshForced
  rw [State.setRank_rank_same]
  exact .inr ⟨rfl, Nat.succ_pos 7⟩

/-- Settles O39: the expiry is `wakeRank` of the one rank, which makes it owe a forced refresh. -/
theorem pauseExpiryWakesTheRank : Obligations.PauseExpiryWakesTheRank := by
  unfold Obligations.PauseExpiryWakesTheRank
  intro s r hpause htimer
  have hforced := refreshForced_wakeRank s r
  exact ⟨_, exec_pauseTimerExpiry hpause htimer, rfl, hforced,
    fun hpower hbus => exec_decision_refreshForced hpower hbus hforced⟩

end Sys2Proof.Machine
end

section
/-! PROOF. CLEAR_COUNTERS (R175) and the commands of one bit (R109, R127): what a cleared counter shows
and how it advances, what the clear leaves, and the statement about them. -/

namespace Sys2Proof.Machine

/-! ### Counters at 0 and their advance -/

@[simp] theorem zeroPortCounters_get (k : PortCounter) : zeroPortCounters.get k = 0 := by
  cases k <;> rfl

@[simp] theorem zeroDeviceCounters_get (k : DeviceCounter) : zeroDeviceCounters.get k = 0 := by
  cases k <;> rfl

/-- A counter below its saturation advances by its amount (R179). -/
theorem toNat_saturatingAdd {c : BitVec 16} {n : Nat} (h : c.toNat + n ≤ 65535) :
    (saturatingAdd c n).toNat = c.toNat + n := by
  rw [saturatingAdd, min_eq_right h, BitVec.toNat_ofNat, Nat.mod_eq_of_lt (Nat.lt_succ_of_le h)]

theorem counterValue_countPort (s : State) (p : Port) (k : PortCounter) (n : Nat) :
    counterValue (countPort s p k n) (.port p k) =
      saturatingAdd (counterValue s (.port p k)) n := by
  simp [counterValue, countPort]

theorem counterValue_countDevice (s : State) (k : DeviceCounter) (n : Nat) :
    counterValue (countDevice s k n) (.device k) =
      saturatingAdd (counterValue s (.device k)) n := by
  simp [counterValue, countDevice]

/-- From 0 a port's counter advances to the amount. -/
theorem toNat_counterValue_countPort {s : State} {p : Port} {k : PortCounter} {n : Nat}
    (hzero : counterValue s (.port p k) = 0) (hn : n ≤ 65535) :
    (counterValue (countPort s p k n) (.port p k)).toNat = n := by
  rw [counterValue_countPort, hzero, toNat_saturatingAdd (by simpa using hn)]
  exact Nat.zero_add n

/-- From 0 a device counter advances to the amount. -/
theorem toNat_counterValue_countDevice {s : State} {k : DeviceCounter} {n : Nat}
    (hzero : counterValue s (.device k) = 0) (hn : n ≤ 65535) :
    (counterValue (countDevice s k n) (.device k)).toNat = n := by
  rw [counterValue_countDevice, hzero, toNat_saturatingAdd (by simpa using hn)]
  exact Nat.zero_add n

/-! ### What the clears do -/

theorem clearAllCounters_port (s : State) (p : Port) :
    (clearAllCounters s).port p = { s.port p with counters := zeroPortCounters } :=
  PerPort.get_map _ _ _

theorem clearAll_port (s : State) (p : Port) : (clearAll s).port p = clearedPort (s.port p) :=
  PerPort.get_map _ _ _

theorem counterValue_clearAllCounters_port (s : State) (p : Port) (k : PortCounter) :
    counterValue (clearAllCounters s) (.port p k) = 0 := by
  rw [counterValue, clearAllCounters_port, zeroPortCounters_get]

theorem counterValue_clearAllCounters_device (s : State) (k : DeviceCounter) :
    counterValue (clearAllCounters s) (.device k) = 0 :=
  zeroDeviceCounters_get k

/-- The clearing point clears a port's counters with the rest of its unit (R182). -/
theorem counterValue_clearAll_port (s : State) (p : Port) (k : PortCounter) :
    counterValue (clearAll s) (.port p k) = 0 := by
  rw [counterValue, clearAll_port]
  exact zeroPortCounters_get k

theorem counterValue_clearAll_device (s : State) (k : DeviceCounter) :
    counterValue (clearAll s) (.device k) = 0 :=
  zeroDeviceCounters_get k

/-- CLEAR_COUNTERS leaves every snapshot (R175). -/
theorem snapshotValue_clearAllCounters (s : State) (c : CounterId) :
    snapshotValue (clearAllCounters s) c = snapshotValue s c := by
  cases c with
  | port p k => rw [snapshotValue, clearAllCounters_port]; rfl
  | device k => rfl
  | row r => rfl

/-! ### The commands -/

theorem exec_clearCounters (s : State) :
    exec .clearCounters s = .next (takeCommand s clearAllCounters) := rfl

theorem exec_refreshPause (s : State) :
    exec .refreshPause s = .next (takeCommand s (setPause true)) := rfl

theorem exec_refreshResume (s : State) :
    exec .refreshResume s = .next (takeCommand s (setPause false)) := rfl

theorem exec_clearDoubt (r : RankId) (s : State) :
    exec (.clearDoubt r) s = .next (takeCommand s (clearRankDoubt r)) := rfl

/-- Settles O43: the command state decides whether the byte is taken; a taken clear is
`clearAllCounters`, whose counters stand at 0 and advance from there. -/
theorem clearsAndPausesTouchTheirOwnState : Obligations.ClearsAndPausesTouchTheirOwnState := by
  unfold Obligations.ClearsAndPausesTouchTheirOwnState
  intro s hpower
  refine ⟨fun hidle => ?taken, fun hbusy => ?refused, counterValue_clearAll_port s,
    counterValue_clearAll_device s, fun r hidle => ?oneBit⟩
  case taken =>
    refine ⟨{ clearAllCounters s with indexPointer := 5 }, ?_,
      counterValue_clearAllCounters_port s, counterValue_clearAllCounters_device s,
      snapshotValue_clearAllCounters s, rfl, fun p => ?_, rfl, fun p k d n hn => ⟨?_, ?_⟩⟩
    · rw [exec_clearCounters, takeCommand_taken ⟨hpower, hidle⟩]
    · change (clearAllCounters s).port p =
        { s.port p with counters := ((clearAllCounters s).port p).counters }
      rw [clearAllCounters_port]
    · exact toNat_counterValue_countPort (counterValue_clearAllCounters_port s p k) hn
    · exact toNat_counterValue_countDevice (counterValue_clearAllCounters_device s d) hn
  case refused => rw [exec_clearCounters, takeCommand_busy hpower hbusy]
  case oneBit =>
    rw [exec_refreshPause, exec_refreshResume, exec_clearDoubt]
    simp only [takeCommand_taken ⟨hpower, hidle⟩]
    exact ⟨rfl, rfl, rfl⟩

end Sys2Proof.Machine
end

section
/-! PROOF. What a command can do, said once. Every command's effect is a chain of elementary changes
(`Change`), each with the conditions under which the model makes it; an invariant is kept by every step
when every elementary change and the tick of the timebase keep it. -/

set_option Elab.async false

namespace Sys2Proof.Machine

/-! ### Changes that touch no work -/

/-- Rank control `d` is `c` but for its timers, its row counter, its doubt, a close-due mark that the
row-open timer sets, and a balance that rises in a READY rank (R123, R129). -/
structure RankControl.Adjusted (c d : RankControl) : Prop where
  state : d.state = c.state := by rfl
  activity : d.activity = c.activity := by rfl
  openRow : d.openRow = c.openRow := by rfl
  presence : d.presence = c.presence := by rfl
  closeDue : d.closeDue = true → c.closeDue = true ∨ c.rowOpenTimer ≠ none := by exact .inl
  rowOpenTimer : d.rowOpenTimer ≠ none → c.rowOpenTimer ≠ none := by exact id
  balance : d.balance = c.balance ∨
    (c.state = .ready ∧ c.balance < 8 ∧ d.balance = c.balance + 1) := by exact .inl rfl

/-- Port unit `v` holds the same PUTs, counts and hold as `u`; its limit and garble count stay or take a
value of their ranges (R14, R154). -/
structure PortUnit.Adjusted (u v : PortUnit) : Prop where
  queue : v.queue = u.queue := by rfl
  taken : v.taken = u.taken := by rfl
  written : v.written = u.written := by rfl
  hold : v.hold = u.hold := by rfl
  limit : v.limit = u.limit ∨ (2 ≤ v.limit.toNat ∧ v.limit.toNat ≤ 10) := by exact .inl rfl
  garble : v.garbleCount = u.garbleCount ∨ v.garbleCount ≤ 3 := by exact .inl rfl

theorem RankControl.Adjusted.refl (c : RankControl) : c.Adjusted c := {}

theorem PortUnit.Adjusted.refl (u : PortUnit) : u.Adjusted u := {}

/-- The ranges of the device-wide settings (R18, R78, R100, R108, R122). -/
def Settings.inRange (x : Settings) : Prop :=
  1 ≤ x.discard.toNat ∧ (1 ≤ x.holdTime.toNat ∧ x.holdTime.toNat ≤ 200) ∧
    (10 ≤ x.interval.toNat ∧ x.interval.toNat ≤ 159) ∧
    (1 ≤ x.threshold.toNat ∧ x.threshold.toNat ≤ 8) ∧ x.streakLimit.toNat ≤ 15

/-- The command can begin a warm reset: WARM_RESET itself, or a byte written at an index whose write has
a row of its own, the command register's among them (R170, R180). -/
def beginsWarmReset (i : Instr) : Prop :=
  i = .warmReset ∨ ∃ index v, i = .registerWrite index v ∧ hasOwnWriteRow index = true

/-- The command is a completion on the memory bus (R119, R125, R132, R133). -/
def completes : Instr → Bool
  | .accessReadComplete | .accessWriteComplete | .refreshComplete
  | .initializationRefreshComplete | .closeComplete => true
  | _ => false

/-- A port's state after a change that leaves the table: it stays, becomes ACTIVE or DRAINING, or, with
nothing left in the port, QUIET (R156, R158). -/
def modeMoves (s : State) (p : Port) (m : PortMode) : Prop :=
  m = (s.port p).mode ∨ m = .active ∨ m = .draining ∨ (m = .quiet ∧ drained s p = true)

/-- State `t` has the work of `s`: its table, queues, holds, operation in progress and memory. What
command `i` may have changed keeps to its ranges. -/
structure Adjusted (i : Instr) (s t : State) : Prop where
  pending : t.pending = s.pending := by rfl
  powerOns : t.powerOns = s.powerOns := by rfl
  table : t.table = s.table := by rfl
  bus : t.bus = s.bus := by rfl
  memory : t.memory = s.memory := by rfl
  warm : t.warm = s.warm ∨ t.warm = .idle ∨ (beginsWarmReset i ∧ s.bus ≠ none) := by exact .inl rfl
  port : ∀ p, (s.port p).Adjusted (t.port p) := by exact fun _ => {}
  mode : ∀ p, modeMoves s p (t.port p).mode := by exact fun _ => .inl rfl
  rank : ∀ r, (s.rank r).Adjusted (t.rank r) := by exact fun _ => {}
  settings : s.settings.inRange → t.settings.inRange := by exact id
  threshold : 1 ≤ s.settings.threshold.toNat → 1 ≤ t.settings.threshold.toNat := by exact id
  streak : t.sched.streakCount = s.sched.streakCount := by rfl
  window : ∀ w, t.window w = s.window w ∨
    ((t.window w).staged = false → (t.window w).staging = (t.window w).active) := by
      exact fun _ => .inl rfl
  snapshot : ∀ c, i ≠ .counterLowByteRead c → snapshotValue t c = snapshotValue s c := by
    exact fun c _ => by cases c <;> rfl

/-- A change of one port's unit that touches none of its work. -/
theorem Adjusted.ofSetPort {i : Instr} {s : State} {p : Port} {u : PortUnit}
    (h : (s.port p).Adjusted u) (hmode : modeMoves s p u.mode)
    (hsnapshots : u.snapshots = (s.port p).snapshots) : Adjusted i s (s.setPort p u) where
  port q := by
    by_cases hq : q = p
    · subst hq; rwa [State.setPort_port_same]
    · rw [State.setPort_port_ne _ _ hq]; exact .refl _
  mode q := by
    by_cases hq : q = p
    · subst hq; rwa [State.setPort_port_same]
    · rw [State.setPort_port_ne _ _ hq]; exact .inl rfl
  snapshot c _ := by
    cases c with
    | port q k =>
      by_cases hq : q = p
      · subst hq; rw [snapshotValue, State.setPort_port_same, hsnapshots]; rfl
      · rw [snapshotValue, State.setPort_port_ne _ _ hq]; rfl
    | device k => rfl
    | row r => rfl

/-- A change of one rank's control that touches none of its work. -/
theorem Adjusted.ofSetRank {i : Instr} {s : State} {r : RankId} {c : RankControl}
    (h : (s.rank r).Adjusted c) : Adjusted i s (s.setRank r c) where
  rank x := by
    by_cases hx : x = r
    · subst hx; rwa [State.setRank_rank_same]
    · rw [State.setRank_rank_ne _ _ hx]; exact .refl _

/-! ### The changes of work -/

/-- Entry `e` joins the kept entries of the table (R2, R15, R16): there is room, no entry has its key, and
the check order has been passed. -/
structure Creates (s : State) (kept : List Entry) (e : Entry) : Prop where
  sublist : kept.Sublist s.table
  free : ∀ x ∈ kept, x.slot ≠ e.slot
  room : (kept = s.table ∧ admits s e.port = true) ∨
    (kept.countP fun x => x.port == e.port) < heldCount s e.port
  fresh : ∀ x ∈ s.table, ¬ x.hasKey e.port e.kind e.addr
  mode : (s.port e.port).mode = .active
  state : e.state = .queued
  readData : e.readData = []
  leftover : e.leftover = false
  orphan : e.orphan = false
  timer : e.discardTimer = none
  fence : e.fence = (s.port e.port).taken
  fenceMet : e.fenceMet = ((s.port e.port).taken == (s.port e.port).written)
  fits : e.kind ≠ .claim → wordsFit s e.addr e.length
  single : e.kind = .claim → claimsAlready s e.port = false

/-- The entry is a READY FETCH of which something is left after `n` words, at an address that no FETCH
entry of its port holds (R11, R12). -/
structure Leaves (s : State) (e : Entry) (n : Nat) : Prop where
  mem : e ∈ s.table
  kind : e.kind = .fetch
  live : e.orphan = false
  ready : e.leftover = true ∨ e.state = .ready
  rest : n < e.readData.length
  key : fetchKeyHeld s e.port (addWords e.addr n) = false

/-- What is left of a READY FETCH entry whose first `n` words have been delivered (R11). -/
def Entry.restAfter (s : State) (x : Entry) (e : Entry) (n : Nat) : Entry :=
  { x with
    addr := addWords e.addr n
    length := (e.readData.drop n).length
    leftover := true
    readData := e.readData.drop n
    discardTimer := freshDiscard s }

/-- The rank of a REFRESH or CLOSE at its completion, and the bus FREE (R119, R125, R133): a forced or
pull-in refresh lowers the balance, an initialization refresh may make the rank READY with balance 0. -/
def RankFreed (x : BusOp) (c d : RankControl) : Prop :=
  d.presence = c.presence ∧ d.activity = .idle ∧ d.closeDue = c.closeDue ∧
    d.rowOpenTimer = c.rowOpenTimer ∧
    ((d.openRow = c.openRow ∧ d.state = c.state ∧
        (d.balance = c.balance ∨ (d.balance = c.balance - 1 ∧ ∃ r k, x = .refresh r k ∧ k ≠ .wake))) ∨
      (d.openRow = none ∧ d.state = .ready ∧ d.balance = 0 ∧ ∃ r, x = .refresh r .wake))

/-- A read ACCESS at its completion, up to the evaluation of grants (R132): bus and rank, and the entry
it serves. -/
def readBack (s : State) (a : Access) : State :=
  let words := s.memory.readWords s.powerOns a.base.toNat a.words
  let s := freeBusAfterAccess s a
  match issuedEntry s a with
  | some e => deliverRead s e words
  | none => s

theorem completeRead_eq (s : State) (a : Access) :
    completeRead s a = warmStep (settleDrain (evaluateGrants (readBack s a)) a.port) := rfl

/-- A write ACCESS at its completion, up to the evaluation of grants (R132): memory, bus and rank, the
work it serves, and the coherence search. -/
def writeBack (s : State) (a : Access) : State :=
  let words := writeData s a
  coherenceSearch
    (retireWrite
      (freeBusAfterAccess { s with memory := s.memory.storeWords a.base.toNat words } a) a)
    (writtenWords a.base.toNat words)

theorem completeWrite_eq (s : State) (a : Access) :
    completeWrite s a = warmStep (settleDrains (evaluateGrants (writeBack s a))) := rfl

/-- The elementary changes that command `i` is made of, with the conditions under which the model makes
them. -/
inductive Change (i : Instr) : State → State → Prop where
  /-- Nothing of the work changes. -/
  | adjust {s t : State} (h : Adjusted i s t) : Change i s t
  /-- Entries are freed (R3). -/
  | shrink {s : State} (kept : List Entry) (h : kept.Sublist s.table) :
      Change i s { s with table := kept }
  /-- An entry is created (R2). -/
  | create {s : State} (kept : List Entry) (e : Entry) (h : Creates s kept e) :
      Change i s { s with table := kept ++ [e] }
  /-- A READY FETCH entry becomes, or stays, a leftover (R11). -/
  | leave {s : State} (e : Entry) (n : Nat) (h : Leaves s e n) :
      Change i s (updateEntry s e.slot fun x => x.restAfter s e n)
  /-- A QUEUED CLAIM is granted (R83). -/
  | grant {s : State} (c : Entry) (hgrantable : grantable s c = true)
      (hmem : slotsDistinct s → c ∈ s.table ∧ c.kind = .claim ∧ c.state = .queued) :
      Change i s (Machine.grant s c)
  /-- A hold ends, and its claim is withdrawn (R88, R89). -/
  | withdraw {s : State} (p : Port) : Change i s (withdrawClaim (freeHold s p) p)
  /-- A hold is released, with no claim left that was granted it (R35, R90). -/
  | release {s : State} (p : Port) (kept : List Entry) (h : kept.Sublist s.table)
      (hclaims : claimLaw s → ∀ x ∈ kept, isGrantedClaim p x = false) :
      Change i s { freeHold s p with table := kept }
  /-- A port is cleaned up, in its own state or entering FAULT (R157, R162). -/
  | cleanup {s : State} (p : Port) (m : PortMode) (h : m = (s.port p).mode ∨ m = .fault) :
      Change i s (cleanedUp (s.setPort p { s.port p with mode := m }) p)
  /-- A PUT is taken (R41, R47). -/
  | enqueue {s : State} (p : Port) (addr : Addr) (n : Nat) (words : List HeldWord) (w : WindowId)
      (place : Place) (hroom : queueFull s p = false)
      (hfree : putHeldBack s p (wordSpan addr n) = false) (hfits : wordsFit s addr n) :
      Change i s (enqueuePut s p addr n words w place)
  /-- A REFRESH is issued (R98). -/
  | refresh {s : State} (r : RankId) (k : RefreshClass) (hbus : s.bus = none)
      (h : forcedCandidate s r = some k ∨ (k = .pullIn ∧ pullInCandidate s r = true)) :
      Change i s { s.setRank r (rankForRefresh (s.rank r)) with bus := some (.refresh r k) }
  /-- A CLOSE is issued (R98). -/
  | close {s : State} (r : RankId) (hbus : s.bus = none) (h : closeCandidate s r = true) :
      Change i s (issueClose s r)
  /-- An ACCESS is issued (R97). -/
  | access {s : State} (c : Candidate) (hbus : s.bus = none)
      (h : accessCandidate s c.port = some c) : Change i s (issueAccess s c)
  /-- A read completes (R132). -/
  | read {s : State} (a : Access) (hbus : s.bus = some (.access a)) (hread : a.write = false)
      (hi : completes i = true) : Change i s (readBack s a)
  /-- A write completes (R132). -/
  | write {s : State} (a : Access) (hbus : s.bus = some (.access a)) (hwrite : a.write = true)
      (hi : i = .accessWriteComplete) : Change i s (writeBack s a)
  /-- A REFRESH or CLOSE completes (R119, R125, R133). -/
  | free {s : State} (x : BusOp) (d : RankControl) (hbus : s.bus = some x)
      (hx : ∀ a, x ≠ .access a) (h : RankFreed x (s.rank x.rank) d) (hi : completes i = true) :
      Change i s { s.setRank x.rank d with bus := none }
  /-- A rank leaves PAUSE (R118). -/
  | wake {s : State} (r : RankId) (h : (s.rank r).state = .pause) :
      Change i s (s.setRank r (wakeRank (s.rank r)))
  /-- The clearing point of a warm reset (R182). -/
  | clear {s : State} (hbus : s.bus = none) (h : s.warm = .waiting ∨ beginsWarmReset i) :
      Change i s (clearAll s)
  /-- Power-on reset is asserted or released (R186, R187). -/
  | power {s : State} (sel : Bool) (codeA codeB : BitVec 2) (asserted : Bool) (n : Nat) (flags : Byte)
      (hi : i = .powerOnResetAssert ∨ ∃ x a b, i = .powerOnResetRelease x a b) :
      Change i s
        { atPowerOn s sel codeA codeB with
          powerOnAsserted := asserted, powerOns := n, deviceFlags := flags }

/-- A chain of elementary changes. -/
abbrev Changes (i : Instr) : State → State → Prop :=
  Relation.ReflTransGen (Change i)

end Sys2Proof.Machine
end

section
/-! PROOF. The chains of the shared operations: request side, holds, drains, answers. -/

set_option Elab.async false

namespace Sys2Proof.Machine

/-! ### Chains -/

section
variable {i : Instr}

theorem Adjusted.changes {s t : State} (h : Adjusted i s t) : Changes i s t :=
  .single (.adjust h)

theorem foldl_changes {α : Type} (f : State → α → State) (hf : ∀ s x, Changes i s (f s x))
    (l : List α) (s : State) : Changes i s (l.foldl f s) := by
  induction l generalizing s with
  | nil => exact .refl
  | cons x l ih => exact (hf s x).trans (ih (f s x))

/-! ### Changes of one port's unit -/

theorem setPort_changes {s : State} {p : Port} {u : PortUnit} (h : (s.port p).Adjusted u)
    (hmode : modeMoves s p u.mode) (hsnapshots : u.snapshots = (s.port p).snapshots) :
    Changes i s (s.setPort p u) :=
  (Adjusted.ofSetPort h hmode hsnapshots).changes

theorem reply_changes (s : State) (p : Port) (a : Answer) : Changes i s (reply s p a) :=
  setPort_changes {} (.inl rfl) rfl

theorem raiseEvent_changes (s : State) (p : Port) (k : EventKind) (a : Addr) (c : Cause) :
    Changes i s (raiseEvent s p k a c) :=
  setPort_changes {} (.inl rfl) rfl

theorem clearEvents_changes (s : State) (p : Port) : Changes i s (clearEvents s p) :=
  setPort_changes {} (.inl rfl) rfl

theorem countPort_changes (s : State) (p : Port) (k : PortCounter) (n : Nat) :
    Changes i s (countPort s p k n) :=
  setPort_changes {} (.inl rfl) rfl

theorem passHeader_changes (s : State) (p : Port) : Changes i s (passHeader s p) :=
  setPort_changes { garble := .inr (Nat.zero_le 3) } (.inl rfl) rfl

theorem beginFrame_changes (s : State) (p : Port) : Changes i s (beginFrame s p) :=
  setPort_changes {} (.inl rfl) rfl

theorem finishAnswer_changes (s : State) (p : Port) : Changes i s (finishAnswer s p) :=
  setPort_changes {} (.inl rfl) rfl

theorem deny_changes (s : State) (p : Port) (tag : Byte) (a : Addr) (r : Reason) :
    Changes i s (deny s p tag a r) :=
  (raiseEvent_changes s p _ _ _).trans (reply_changes _ _ _)

theorem againFull_changes (s : State) (p : Port) (tag : Byte) : Changes i s (againFull s p tag) :=
  (countPort_changes s p _ _).trans (reply_changes _ _ _)

theorem noteHostParity_changes (s : State) (p : Port) (a : Addr) (ws : List HeldWord) :
    Changes i s (noteHostParity s p a ws) := by
  unfold noteHostParity
  split
  · exact (raiseEvent_changes s p _ _ _).trans (countPort_changes _ _ _ _)
  · exact .refl

theorem deliver_changes (s : State) (p : Port) (tag : Byte) (a : Addr) (ws : List ReadWord) :
    Changes i s (deliver s p tag a ws) := by
  unfold deliver
  dsimp only
  refine .trans ?_ (reply_changes _ _ _)
  split
  · exact .refl
  · exact (raiseEvent_changes s p _ _ _).trans (countPort_changes _ _ _ _)

theorem raiseDiscard_changes (s : State) (e : Entry) : Changes i s (raiseDiscard s e) :=
  (raiseEvent_changes s e.port _ _ _).trans (countPort_changes _ _ _ _)

/-- A drain test makes a DRAINING port with nothing left QUIET, and changes nothing else (R158). -/
theorem settleDrain_changes (s : State) (p : Port) : Changes i s (settleDrain s p) := by
  unfold settleDrain
  split
  next h => exact setPort_changes {} (.inr (.inr (.inr ⟨rfl, h.2⟩))) rfl
  next => exact .refl

theorem settleDrains_changes (s : State) : Changes i s (settleDrains s) :=
  foldl_changes _ settleDrain_changes _ s

/-! ### Changes outside the port units -/

theorem countDevice_changes (s : State) (k : DeviceCounter) (n : Nat) :
    Changes i s (countDevice s k n) :=
  Adjusted.changes {}

theorem suppress_changes (s : State) (ws : List ReadWord) : Changes i s (suppress s ws) :=
  countDevice_changes s _ _

theorem setDeviceFlag_changes (s : State) (b : Byte) : Changes i s (setDeviceFlag s b) :=
  Adjusted.changes {}

theorem freeEntry_changes (s : State) (n : Slot) : Changes i s (freeEntry s n) :=
  .single (.shrink _ List.filter_sublist)

theorem dropEntry_changes (s : State) (e : Entry) : Changes i s (dropEntry s e) :=
  (freeEntry_changes s _).trans (suppress_changes _ _)

/-! ### Holds -/

/-- A grant leaves the entries' numbers. -/
theorem grant_slots (s : State) (c : Entry) :
    (grant s c).table.map (·.slot) = s.table.map (·.slot) := by
  rw [grant_table, List.map_map]
  refine List.map_congr_left fun e _ => ?_
  simp only [Function.comp]
  split <;> rfl

/-- The claims of an evaluation are examined one after the other, each QUEUED in the table when its turn
comes (R82). -/
theorem foldl_grantIfPossible_changes (l : List Entry) (s : State)
    (h : slotsDistinct s → l.Pairwise (fun c d => c.slot ≠ d.slot) ∧
      ∀ c ∈ l, c ∈ s.table ∧ c.kind = .claim ∧ c.state = .queued) :
    Changes i s (l.foldl grantIfPossible s) := by
  induction l generalizing s with
  | nil => exact .refl
  | cons c l ih =>
    rw [List.foldl_cons]
    unfold grantIfPossible
    split
    next hgrantable =>
      refine Relation.ReflTransGen.head
        (.grant c hgrantable fun hs => (h hs).2 c (List.mem_cons_self ..)) (ih _ fun hs => ?_)
      have hs' : slotsDistinct s := by
        unfold slotsDistinct at hs
        rwa [grant_slots] at hs
      obtain ⟨hpair, hmem⟩ := h hs'
      obtain ⟨hne, hpair⟩ := List.pairwise_cons.mp hpair
      refine ⟨hpair, fun d hd => ?_⟩
      obtain ⟨hd', hkind⟩ := hmem d (List.mem_cons_of_mem _ hd)
      refine ⟨?_, hkind⟩
      rw [grant_table]
      exact List.mem_map.mpr ⟨d, hd', if_neg (hne d hd).symm⟩
    next =>
      refine ih _ fun hs => ?_
      obtain ⟨hpair, hmem⟩ := h hs
      exact ⟨hpair.of_cons, fun d hd => hmem d (List.mem_cons_of_mem _ hd)⟩

theorem evaluateGrants_changes (s : State) : Changes i s (evaluateGrants s) := by
  refine foldl_grantIfPossible_changes _ s fun hs => ⟨(pairwise_slots hs).filter _, fun c hc => ?_⟩
  simpa [pendingClaims, List.mem_filter] using hc

theorem expireHold_changes (s : State) (p : Port) (cause : Cause) :
    Changes i s (expireHold s p cause) := by
  unfold expireHold
  split
  · exact .refl
  · next h _ =>
    have hset : ∀ t : State, Changes i t (t.setPort p { t.port p with lastHoldExpired := true }) :=
      fun t => setPort_changes {} (.inl rfl) rfl
    refine (Relation.ReflTransGen.single (.withdraw p)).trans ?_
    exact (hset _).trans ((raiseEvent_changes _ p .holdExpired h.base cause).trans
      (evaluateGrants_changes _))

theorem releaseHold_changes (s : State) (p : Port) : Changes i s (releaseHold s p) := by
  refine (Relation.ReflTransGen.single
    (.release p (s.table.filter fun e => !isGrantedClaim p e) List.filter_sublist fun _ x hx => ?_)).trans
    (evaluateGrants_changes _)
  simpa using (List.mem_filter.mp hx).2

theorem portCleanup_changes (s : State) (p : Port) : Changes i s (portCleanup s p) := by
  rw [portCleanup_eq]
  have h : Change i s (cleanedUp (s.setPort p { s.port p with mode := (s.port p).mode }) p) :=
    .cleanup p _ (.inl rfl)
  have hself : s.setPort p { s.port p with mode := (s.port p).mode } = s := State.setPort_self s p
  rw [hself] at h
  exact (Relation.ReflTransGen.single h).trans (evaluateGrants_changes _)

theorem enterFault_changes (s : State) (p : Port) : Changes i s (enterFault s p) := by
  unfold enterFault
  dsimp only
  rw [portCleanup_eq]
  exact (Relation.ReflTransGen.single (.cleanup p .fault (.inr rfl))).trans
    ((evaluateGrants_changes _).trans (setDeviceFlag_changes _ _))

theorem takeGarbled_changes (s : State) (p : Port) (tag : Byte) :
    Changes i s (takeGarbled s p tag) := by
  unfold takeGarbled
  dsimp only
  refine .trans ?_ (reply_changes _ _ _)
  split
  next h => exact setPort_changes { garble := .inr (by show _ + 1 ≤ 3; omega) } (.inl rfl) rfl
  next =>
    split
    · exact setPort_changes { garble := .inr (Nat.zero_le 3) } (.inl rfl) rfl
    · exact enterFault_changes s p

/-! ### Requests -/

/-- What the matching step found (R7, R8). -/
theorem matchKey_eq_entry {s : State} {p : Port} {k : EntryKind} {addr : Addr} {e : Entry}
    (h : matchKey s p k addr = .entry e) : e ∈ s.table ∧ e.hasKey p k addr ∧ e.orphan = false := by
  unfold matchKey at h
  dsimp only at h
  split at h
  next f hf =>
    cases h
    have hkey := List.find?_some hf
    simp only [Bool.and_eq_true, beq_iff_eq, Bool.not_eq_true'] at hkey
    obtain ⟨⟨⟨hp, hk⟩, ha⟩, ho⟩ := hkey
    exact ⟨List.mem_of_find?_eq_some hf, ⟨hp, hk, ha⟩, ho⟩
  next => split at h <;> cases h

theorem matchKey_eq_fresh {s : State} {p : Port} {k : EntryKind} {addr : Addr}
    (h : matchKey s p k addr = .fresh) : ∀ e ∈ s.table, ¬ e.hasKey p k addr := by
  unfold matchKey at h
  dsimp only at h
  split at h
  next => cases h
  next =>
    split at h
    next => cases h
    next hany =>
      rintro e he ⟨hp, hk, ha⟩
      exact hany (List.any_eq_true.mpr ⟨e, he, by simp [hp, hk, ha]⟩)

/-- What passed steps 7 to 9 of the check order (R28). -/
theorem gate_eq_pass {s : State} {p : Port} {k : Purpose} {addr : Addr} {w : WindowId}
    {place : Place} (h : gate s p k addr = .pass w place) :
    (s.port p).mode ≠ .draining ∧ (s.port p).mode ≠ .quiet ∧ decodeWindow s p k addr = some w ∧
      placeOf s addr = some place := by
  unfold gate at h
  split at h
  next => cases h
  next hmode =>
    split at h
    next => cases h
    next w' hw =>
      split at h
      next => cases h
      next place' hplace =>
        cases h
        exact ⟨fun hd => hmode (.inl hd), fun hq => hmode (.inr hq), hw, hplace⟩

theorem mode_active {s : State} {p : Port} (hon : refusesAll s p = false)
    (hd : (s.port p).mode ≠ .draining) (hq : (s.port p).mode ≠ .quiet) :
    (s.port p).mode = .active := by
  have hoff := (Bool.eq_false_iff.trans (not_congr (refusesAll_iff s p))).mp hon
  rw [not_or] at hoff
  cases h : (s.port p).mode <;> simp_all

/-- Every present capacity is a whole number of blocks. -/
theorem blockSize_dvd_totalCapacity (s : State) : 128 ∣ totalCapacity s :=
  ((by decide : 128 ∣ 8192).trans (rowSize_dvd_capacityOf _)).add
    ((by decide : 128 ∣ 8192).trans (rowSize_dvd_capacityOf _))

/-- A well-formed range whose address has a place lies within one block of the present memory (R33,
R75). -/
theorem wordsFit_of_form {s : State} {addr : Addr} {len : Byte} {place : Place}
    (hform : wordFormOk addr len = true) (hplace : placeOf s addr = some place) :
    wordsFit s addr len.toNat := by
  have hlt : ¬ totalCapacity s ≤ addr.toNat := fun hle => by
    rw [(placeOf_eq_none s addr).mpr hle] at hplace
    cases hplace
  obtain ⟨k, hk⟩ := blockSize_dvd_totalCapacity s
  simp only [wordFormOk, Bool.and_eq_true, decide_eq_true_eq] at hform
  obtain ⟨⟨⟨halign, -⟩, -⟩, hblock⟩ := hform
  exact ⟨halign, hblock, by omega⟩

/-- What the creation of an entry needs, but for its room: what the check order has found. -/
structure Admissible (s : State) (p : Port) (e : Entry) : Prop where
  port : e.port = p
  fresh : ∀ x ∈ s.table, ¬ x.hasKey e.port e.kind e.addr
  mode : (s.port p).mode = .active
  state : e.state = .queued
  readData : e.readData = []
  leftover : e.leftover = false
  orphan : e.orphan = false
  timer : e.discardTimer = none
  fence : e.fence = (s.port p).taken
  fenceMet : e.fenceMet = ((s.port p).taken == (s.port p).written)
  fits : e.kind ≠ .claim → wordsFit s e.addr e.length
  single : e.kind = .claim → claimsAlready s p = false

theorem Admissible.creates {s : State} {p : Port} {e : Entry} (h : Admissible s p e)
    {kept : List Entry} (hkept : kept.Sublist s.table) (hfree : ∀ x ∈ kept, x.slot ≠ e.slot)
    (hroom : (kept = s.table ∧ admits s p = true) ∨
      (kept.countP fun x => x.port == p) < heldCount s p) : Creates s kept e := by
  obtain ⟨rfl, h1, h2, h3, h4, h5, h6, h7, h8, h9, h10, h11⟩ := h
  exact ⟨hkept, hfree, hroom, h1, h2, h3, h4, h5, h6, h7, h8, h9, h10, h11⟩

theorem lowestFree_free {s : State} {n : Slot} (h : lowestFree s = some n) :
    ∀ x ∈ s.table, x.slot ≠ n := by
  have := List.find?_some h
  simpa using this

/-- A freed entry is one less of its port. -/
theorem countP_freeEntry_lt {s : State} {e : Entry} (he : e ∈ s.table) :
    ((freeEntry s e.slot).table.countP fun x => x.port == e.port) < heldCount s e.port := by
  have hsplit := List.countP_eq_countP_filter_add s.table (fun x => x.port == e.port)
    fun x => x.slot != e.slot
  have hpos : 0 < (s.table.filter fun x => !(x.slot != e.slot)).countP
      fun x => x.port == e.port :=
    List.countP_pos_iff.mpr ⟨e, List.mem_filter.mpr ⟨he, by simp⟩, by simp⟩
  show (s.table.filter fun x => x.slot != e.slot).countP _ < s.table.countP _
  omega

/-- Step 12 of the check order: the entry is created where there is room, a leftover's place among them
(R16, R42). -/
theorem admitRequest_changes {s : State} {p : Port} {tag : Byte} {make : State → Slot → Entry}
    {created : State → State} (hslot : ∀ n, (make s n).slot = n)
    (hmake : ∀ n, Admissible s p (make s n)) (hdrop : ∀ l n, make (dropEntry s l) n = make s n)
    (hcreated : ∀ t, Changes i t (created t)) :
    Changes i s (admitRequest s p tag make created) := by
  unfold admitRequest makeRoom
  by_cases ha : admits s p = true
  · rw [if_pos ha]
    cases hn : lowestFree s with
    | none => exact againFull_changes s p tag
    | some n =>
      have hnew : Creates s s.table (make s n) :=
        (hmake n).creates (List.Sublist.refl _) (by rw [hslot]; exact lowestFree_free hn)
          (.inl ⟨rfl, ha⟩)
      exact (Relation.ReflTransGen.single (.create _ _ hnew)).trans
        ((hcreated _).trans (reply_changes _ _ _))
  · rw [if_neg ha]
    cases hl : oldestLeftover s p with
    | none => exact againFull_changes s p tag
    | some l =>
      have hport : l.port = p := by
        have := List.find?_some hl
        simp only [Bool.and_eq_true, beq_iff_eq] at this
        exact this.1
      have hmem : l ∈ s.table := List.mem_of_find?_eq_some hl
      have hnew : Creates s (freeEntry s l.slot).table (make s l.slot) := by
        refine (hmake l.slot).creates List.filter_sublist ?_ (.inr ?_)
        · rw [hslot]
          intro x hx
          simpa using (List.mem_filter.mp hx).2
        · exact hport ▸ countP_freeEntry_lt hmem
      refine (Relation.ReflTransGen.single (.create _ _ hnew)).trans ?_
      show Changes i _ (reply (created (addEntry (dropEntry s l) (make (dropEntry s l) l.slot))) p _)
      rw [hdrop]
      refine .trans ?_ ((hcreated _).trans (reply_changes _ _ _))
      exact Adjusted.changes {}

end

end Sys2Proof.Machine
end

section
/-! PROOF. The chains of the request kinds, the completions, the management commands and the resets, and
of every command. -/

set_option Elab.async false

namespace Sys2Proof.Machine

section
variable {i : Instr}

/-! ### Matched requests -/

/-- What becomes of a READY FETCH entry whose first words are delivered (R11, R12). -/
theorem keepRest_changes {s : State} {e : Entry} (n : Nat) (hmem : e ∈ s.table)
    (hkind : e.kind = .fetch) (horphan : e.orphan = false)
    (hready : e.leftover = true ∨ e.state = .ready) : Changes i s (keepRest s e n) := by
  unfold keepRest
  dsimp only
  split
  next => exact freeEntry_changes s _
  next hrest =>
    split
    next => exact (freeEntry_changes s _).trans (suppress_changes _ _)
    next hkey =>
      refine .single (.leave e n ⟨hmem, hkind, horphan, hready, ?_, by simpa using hkey⟩)
      simpa using hrest

theorem handOver_changes {s : State} {p : Port} {tag : Byte} {e : Entry} {n : Nat}
    (hmem : e ∈ s.table) (hkind : e.kind = .fetch) (horphan : e.orphan = false)
    (hready : e.leftover = true ∨ e.state = .ready) : Changes i s (handOver s p tag e n) :=
  (keepRest_changes n hmem hkind horphan hready).trans
    ((deliver_changes _ _ _ _ _).trans (settleDrain_changes _ _))

theorem fetchMatched_changes {s : State} {p : Port} {tag : Byte} {addr : Addr} {len : Byte}
    {e : Entry} (hmem : e ∈ s.table) (hkind : e.kind = .fetch) (horphan : e.orphan = false) :
    Changes i s (fetchMatched s p tag addr len e) := by
  unfold fetchMatched
  split
  next h => exact handOver_changes hmem hkind horphan (.inl h)
  next =>
    split
    · exact deny_changes ..
    · split
      next h => exact handOver_changes hmem hkind horphan (.inr h)
      next => exact reply_changes ..

theorem putSyncMatched_changes (s : State) (p : Port) (tag : Byte) (addr : Addr) (len : Byte)
    (data : List LinkWord) (e : Entry) : Changes i s (putSyncMatched s p tag addr len data e) := by
  unfold putSyncMatched
  split
  · exact deny_changes ..
  · split
    · exact (freeEntry_changes s _).trans ((settleDrain_changes _ _).trans (reply_changes ..))
    · exact reply_changes ..

theorem claimMatched_changes (s : State) (p : Port) (tag : Byte) (addr : Addr) (len : Byte)
    (e : Entry) : Changes i s (claimMatched s p tag addr len e) := by
  unfold claimMatched
  dsimp only
  split
  · exact deny_changes ..
  · split
    · refine .trans ((freeEntry_changes s e.slot).trans (settleDrain_changes _ p)) ?_
      split
      · exact reply_changes ..
      · exact deny_changes ..
    · exact reply_changes ..

/-! ### Fresh requests -/

/-- A new entry is admissible once the check order has been passed (R28, R54). -/
theorem admissible_newEntry {s : State} {p : Port} {purpose : Purpose} {k : EntryKind} {addr : Addr}
    {len : Nat} {w : WindowId} {place : Place} (hon : refusesAll s p = false)
    (hgate : gate s p purpose addr = .pass w place)
    (hfresh : ∀ x ∈ s.table, ¬ x.hasKey p k addr) (hfits : k ≠ .claim → wordsFit s addr len)
    (hsingle : k = .claim → claimsAlready s p = false) (x : Option Place) (words : List HeldWord)
    (n : Slot) :
    Admissible s p { newEntry s n p k addr len x w with writeData := words } := by
  obtain ⟨hd, hq, -, -⟩ := gate_eq_pass hgate
  exact ⟨rfl, hfresh, mode_active hon hd hq, rfl, rfl, rfl, rfl, rfl, rfl, rfl, hfits, hsingle⟩

theorem fetchFresh_changes {s : State} {p : Port} {tag : Byte} {addr : Addr} {len : Byte}
    (hon : refusesAll s p = false) (hform : wordFormOk addr len = true)
    (hfresh : ∀ x ∈ s.table, ¬ x.hasKey p .fetch addr) :
    Changes i s (fetchFresh s p tag addr len) := by
  unfold fetchFresh
  split
  next => exact deny_changes ..
  next w place hgate =>
    exact admitRequest_changes (fun _ => rfl)
      (admissible_newEntry hon hgate hfresh
        (fun _ => wordsFit_of_form hform (gate_eq_pass hgate).2.2.2) (by simp) _ [])
      (fun _ _ => rfl) fun _ => .refl

theorem putSyncFresh_changes {s : State} {p : Port} {tag : Byte} {addr : Addr} {len : Byte}
    {data : List LinkWord} (hon : refusesAll s p = false) (hform : wordFormOk addr len = true)
    (hfresh : ∀ x ∈ s.table, ¬ x.hasKey p .putSync addr) :
    Changes i s (putSyncFresh s p tag addr len data) := by
  unfold putSyncFresh
  split
  next => exact deny_changes ..
  next w place hgate =>
    exact admitRequest_changes (fun _ => rfl)
      (admissible_newEntry hon hgate hfresh
        (fun _ => wordsFit_of_form hform (gate_eq_pass hgate).2.2.2) (by simp) _ _)
      (fun _ _ => rfl) fun t => noteHostParity_changes t _ _ _

theorem claimFresh_changes {s : State} {p : Port} {tag : Byte} {addr : Addr} {len : Byte}
    (hon : refusesAll s p = false) (hfresh : ∀ x ∈ s.table, ¬ x.hasKey p .claim addr) :
    Changes i s (claimFresh s p tag addr len) := by
  unfold claimFresh
  split
  next => exact deny_changes ..
  next w place hgate =>
    split
    next => exact deny_changes ..
    next hsingle =>
      refine admitRequest_changes (fun _ => rfl)
        (admissible_newEntry hon hgate hfresh (by simp)
          (fun _ => Bool.eq_false_iff.mpr hsingle) none [])
        (fun _ _ => rfl) fun t => ?_
      have hset : Changes i t (t.setPort p { t.port p with lastHoldExpired := false }) :=
        setPort_changes {} (.inl rfl) rfl
      exact hset.trans (evaluateGrants_changes _)

theorem putFresh_changes {s : State} {p : Port} {tag : Byte} {addr : Addr} {len : Byte}
    {data : List LinkWord} (hform : wordFormOk addr len = true) :
    Changes i s (putFresh s p tag addr len data) := by
  unfold putFresh
  split
  next => exact deny_changes ..
  next w place hgate =>
    split
    next => exact againFull_changes ..
    next hroom =>
      split
      next => exact reply_changes ..
      next hfree =>
        exact (Relation.ReflTransGen.single
            (.enqueue p addr len.toNat _ w place (Bool.eq_false_iff.mpr hroom)
              (Bool.eq_false_iff.mpr hfree)
              (wordsFit_of_form hform (gate_eq_pass hgate).2.2.2))).trans
          ((noteHostParity_changes _ _ _ _).trans (reply_changes ..))

theorem decideDrop_changes (s : State) (p : Port) (tag : Byte) (addr : Addr) :
    Changes i s (decideDrop s p tag addr) := by
  unfold decideDrop
  dsimp only
  split_ifs
  · exact (releaseHold_changes s p).trans ((settleDrain_changes _ _).trans (reply_changes ..))
  · exact deny_changes ..
  · exact deny_changes ..

/-! ### The check order of each kind -/

theorem judgeFetch_changes (p : Port) (tag : Byte) (addr : Addr) (len : Byte) (s : State) :
    Changes i s (judgeFetch p tag addr len s) := by
  refine (passHeader_changes s p).trans ?_
  unfold judgeFetch
  dsimp only
  split_ifs with hoff hform
  · exact deny_changes ..
  · exact deny_changes ..
  · split
    next e he =>
      obtain ⟨hmem, ⟨-, hkind, -⟩, horphan⟩ := matchKey_eq_entry he
      exact fetchMatched_changes hmem hkind horphan
    next => exact reply_changes ..
    next hfresh =>
      exact fetchFresh_changes (Bool.eq_false_iff.mpr hoff) (by simpa using hform)
        (matchKey_eq_fresh hfresh)

theorem judgePut_changes (p : Port) (tag : Byte) (addr : Addr) (len : Byte) (data : List LinkWord)
    (s : State) : Changes i s (judgePut p tag addr len data s) := by
  refine (passHeader_changes s p).trans ?_
  unfold judgePut
  dsimp only
  split_ifs with hoff hform
  · exact deny_changes ..
  · exact deny_changes ..
  · exact putFresh_changes (by simpa using hform)

theorem judgePutSync_changes (p : Port) (tag : Byte) (addr : Addr) (len : Byte)
    (data : List LinkWord) (s : State) : Changes i s (judgePutSync p tag addr len data s) := by
  refine (passHeader_changes s p).trans ?_
  unfold judgePutSync
  dsimp only
  split_ifs with hoff hform
  · exact deny_changes ..
  · exact deny_changes ..
  · split
    next => exact putSyncMatched_changes ..
    next => exact reply_changes ..
    next hfresh =>
      exact putSyncFresh_changes (Bool.eq_false_iff.mpr hoff) (by simpa using hform)
        (matchKey_eq_fresh hfresh)

theorem judgeClaim_changes (p : Port) (tag : Byte) (addr : Addr) (len : Byte) (s : State) :
    Changes i s (judgeClaim p tag addr len s) := by
  refine (passHeader_changes s p).trans ?_
  unfold judgeClaim
  dsimp only
  split_ifs with hoff hform
  · exact deny_changes ..
  · exact deny_changes ..
  · split
    next => exact claimMatched_changes ..
    next => exact reply_changes ..
    next hfresh =>
      exact claimFresh_changes (Bool.eq_false_iff.mpr hoff) (matchKey_eq_fresh hfresh)

theorem judgeDrop_changes (p : Port) (tag : Byte) (addr : Addr) (s : State) :
    Changes i s (judgeDrop p tag addr s) := by
  refine (passHeader_changes s p).trans ?_
  unfold judgeDrop
  dsimp only
  split_ifs
  · exact deny_changes ..
  · exact deny_changes ..
  · exact decideDrop_changes ..

theorem judgeStatus_changes (p : Port) (tag : Byte) (s : State) :
    Changes i s (judgeStatus p tag s) :=
  (passHeader_changes s p).trans ((clearEvents_changes _ p).trans (reply_changes _ _ _))

theorem judgeUnnamed_changes (p : Port) (tag : Byte) (addr : Addr) (s : State) :
    Changes i s (judgeUnnamed p tag addr s) := by
  refine (passHeader_changes s p).trans ?_
  unfold judgeUnnamed
  dsimp only
  split <;> exact deny_changes ..

theorem endFrame_changes (s : State) (p : Port) (tag : Byte) (judge : State → State)
    (hj : Changes i s (judge s)) : Changes i s (endFrame s p tag judge) := by
  unfold endFrame
  split
  · exact setPort_changes {} (.inl rfl) rfl
  · exact reply_changes ..
  · exact takeGarbled_changes ..
  · exact hj

/-! ### Timers and the port-reset line -/

/-- With at most one CLAIM entry in a port, two of them are one. -/
theorem claim_unique {s : State} (hclaim : claimLaw s) {e x : Entry} (he : e ∈ s.table)
    (hx : x ∈ s.table) (hp : x.port = e.port) (hk : e.kind = .claim) (hxk : x.kind = .claim) :
    x = e := by
  obtain ⟨-, hports⟩ := hclaim
  obtain ⟨hcount, -⟩ := hports e.port
  rw [List.countP_eq_length_filter] at hcount
  have he' : e ∈ s.table.filter fun y => y.port == e.port && y.kind == .claim :=
    List.mem_filter.mpr ⟨he, by simp [hk]⟩
  have hx' : x ∈ s.table.filter fun y => y.port == e.port && y.kind == .claim :=
    List.mem_filter.mpr ⟨hx, by simp [hp, hxk]⟩
  match hl : s.table.filter fun y => y.port == e.port && y.kind == .claim with
  | [] => rw [hl] at he'; cases he'
  | [y] =>
    rw [hl, List.mem_singleton] at he' hx'
    rw [he', hx']
  | _ :: _ :: _ => rw [hl] at hcount; simp at hcount

theorem raiseDiscard_eq (s : State) (e : Entry) :
    raiseDiscard s e =
      s.setPort e.port (((s.port e.port).raised .discard e.addr .none).counted .discard 1) := by
  simp [raiseDiscard, raiseEvent_eq, countPort_eq]

theorem discardEntry_changes {s : State} {e : Entry} (he : e ∈ s.table) :
    Changes i s (discardEntry s e) := by
  unfold discardEntry
  split
  next =>
    split
    · exact dropEntry_changes s e
    · exact (dropEntry_changes s e).trans (raiseDiscard_changes _ e)
  next =>
    exact (freeEntry_changes s _).trans
      ((raiseDiscard_changes _ e).trans (evaluateGrants_changes _))
  next hk =>
    dsimp only
    split
    · have hrelease : Change i s { freeHold s e.port with table := (freeEntry s e.slot).table } := by
        refine .release e.port _ List.filter_sublist fun hclaim x hx => Bool.eq_false_iff.mpr ?_
        intro hgranted
        obtain ⟨hp, hxk, -, -⟩ := (isGrantedClaim_iff _ _).mp hgranted
        obtain ⟨hmem, hne⟩ := List.mem_filter.mp hx
        rw [claim_unique hclaim he hmem hp hk hxk] at hne
        simp at hne
      refine (Relation.ReflTransGen.single hrelease).trans (.trans ?_ (evaluateGrants_changes _))
      have hswap : freeHold (raiseDiscard (freeEntry s e.slot) e) e.port =
          raiseDiscard { freeHold s e.port with table := (freeEntry s e.slot).table } e := by
        rw [raiseDiscard_eq, raiseDiscard_eq, freeHold, State.setPort_port_same,
          State.setPort_setPort]
        simp only [freeHold, State.setPort, State.port, PerPort.get_set_same, PerPort.set_set]
        rfl
      rw [hswap]
      exact raiseDiscard_changes _ e
    · exact (freeEntry_changes s _).trans (raiseDiscard_changes _ e)

theorem intervalExpiry_changes {s : State} {r : RankId} (hready : (s.rank r).state = .ready) :
    Changes i s (intervalExpiry s r) := by
  unfold intervalExpiry
  dsimp only
  split
  next h => exact (Adjusted.ofSetRank { balance := .inr ⟨hready, h, rfl⟩ }).changes
  next =>
    have hset : ∀ (t : State) (c : RankControl), (t.rank r).Adjusted c →
        Changes i t (t.setRank r c) := fun t c h => (Adjusted.ofSetRank h).changes
    exact (hset s _ {}).trans ((hset _ _ {}).trans
      ((setDeviceFlag_changes _ _).trans (countDevice_changes _ _ _)))

theorem assertPortReset_changes (s : State) (p : Port) : Changes i s (assertPortReset s p) := by
  unfold assertPortReset
  dsimp only
  have hcut : Changes i s (s.setPort p (cutLink (s.port p))) :=
    setPort_changes {} (.inl rfl) rfl
  split
  · exact hcut
  · exact hcut.trans ((portCleanup_changes _ p).trans (settleDrain_changes _ p))

/-! ### Decisions -/

theorem accessWinner_eq_some {s : State} {c : Candidate} (h : accessWinner s = some c) :
    accessCandidate s c.port = some c := by
  have hscan : c ∈ scannedCandidates s := by
    unfold accessWinner at h
    dsimp only at h
    split at h
    · split at h
      next x hx =>
        cases h
        exact (List.mem_filter.mp (List.mem_of_find?_eq_some hx)).1
      next =>
        split at h
        next x l hx =>
          cases h
          exact (List.mem_filter.mp (hx ▸ List.mem_cons_self ..)).1
        next => exact List.mem_of_mem_head? h
    · exact List.mem_of_mem_head? h
  unfold scannedCandidates at hscan
  split at hscan
  · obtain ⟨p, -, hp⟩ := List.mem_filterMap.mp hscan
    rwa [accessCandidate_port hp]
  · cases hscan

theorem pullInWinner_eq_some {s : State} {r : RankId} (h : pullInWinner s = some r) :
    pullInCandidate s r = true := by
  unfold pullInWinner at h
  split_ifs at h with h0 h1 h1
  · cases h; exact h1.1
  · cases h; exact h0
  · cases h; exact h1

/-- What a decision picks is a candidate of its class (R104). -/
theorem winner_eq_some {s : State} {x : Choice} (h : winner s = some x) :
    match x with
    | .refresh r k => forcedCandidate s r = some k ∨ (k = .pullIn ∧ pullInCandidate s r = true)
    | .close r => closeCandidate s r = true
    | .access c => accessCandidate s c.port = some c := by
  unfold winner at h
  split at h
  next k _ hk => cases h; exact .inl hk
  next k _ hk => cases h; exact .inl hk
  next =>
    split_ifs at h with h0 h1
    · cases h; exact h0
    · cases h; exact h1
    · split at h
      next c hc => cases h; exact accessWinner_eq_some hc
      next =>
        obtain ⟨r, hr, rfl⟩ := Option.map_eq_some_iff.mp h
        exact .inr ⟨rfl, pullInWinner_eq_some hr⟩

theorem makeDecision_changes (s : State) : Changes i s (makeDecision s) := by
  unfold makeDecision
  split
  next hmay =>
    have hbus : s.bus = none := by
      simp only [mayDecide, Bool.and_eq_true, Option.isNone_iff_eq_none] at hmay
      exact hmay.1
    split
    next x hx =>
      have hwin := winner_eq_some hx
      cases x with
      | refresh r k =>
        refine (Relation.ReflTransGen.single (.refresh r k hbus hwin)).trans ?_
        cases k with
        | forced => exact countDevice_changes _ .forcedRefresh 1
        | pullIn => exact countDevice_changes _ .pullInRefresh 1
        | wake => exact .refl
      | close r => exact .single (.close r hbus hwin)
      | access c => exact .single (.access c hbus hwin)
    next => exact .refl
  next => exact .refl

/-! ### The warm reset -/

theorem endWarmReset_changes (s : State) : Changes i s (endWarmReset s) := by
  unfold endWarmReset
  split
  next h =>
    refine Adjusted.changes
      { warm := .inr (.inl rfl), port := fun p => ?_, mode := fun p => ?_, snapshot := fun c _ => ?_ }
    · change (s.port p).Adjusted ((s.ports.map freshenLink).get p)
      rw [PerPort.get_map]
      exact {}
    · change modeMoves s p ((s.ports.map freshenLink).get p).mode
      rw [PerPort.get_map]
      exact .inl rfl
    · cases c with
      | port p k =>
        change ((s.ports.map freshenLink).get p).snapshots.get k = _
        rw [PerPort.get_map]
        rfl
      | device k => rfl
      | row r => rfl
  next => exact .refl

/-- With the bus FREE a completion takes the warm reset on (R181, R183). -/
theorem warmStep_changes {s : State} (hbus : s.bus = none) : Changes i s (warmStep s) := by
  unfold warmStep
  split
  next h => exact (Relation.ReflTransGen.single (.clear hbus (.inl h))).trans (endWarmReset_changes _)
  next => exact endWarmReset_changes s

theorem beginWarmReset_changes {s : State} (hi : beginsWarmReset i) :
    Changes i s (beginWarmReset s) := by
  unfold beginWarmReset
  dsimp only
  split
  next hbus =>
    exact (Relation.ReflTransGen.single
      (.clear (Option.isNone_iff_eq_none.mp hbus) (.inr hi))).trans (endWarmReset_changes _)
  next hbus =>
    exact Adjusted.changes
      { warm := .inr (.inr ⟨hi, fun hnone => hbus (Option.isNone_iff_eq_none.mpr hnone)⟩) }

/-! ### Completions on the memory bus -/

theorem readBack_requestBus (s : State) (a : Access) : (readBack s a).bus = none := by
  unfold readBack
  dsimp only
  split
  · exact (deliverRead_requestSide _ _ _).bus
  · rfl

theorem writeBack_bus (s : State) (a : Access) : (writeBack s a).bus = none :=
  (coherenceSearch_requestSide _ _).bus.trans (retireWrite_requestSide _ _).bus

theorem completeRead_changes {s : State} {a : Access} (hbus : s.bus = some (.access a))
    (hread : a.write = false) (hi : completes i = true) : Changes i s (completeRead s a) := by
  rw [completeRead_eq]
  refine (Relation.ReflTransGen.single (.read a hbus hread hi)).trans
    ((evaluateGrants_changes _).trans ((settleDrain_changes _ _).trans (warmStep_changes ?_)))
  rw [(settleDrain_requestSide _ _).bus, (evaluateGrants_requestSide _).bus, readBack_requestBus]

theorem completeWrite_changes {s : State} {a : Access} (hbus : s.bus = some (.access a))
    (hwrite : a.write = true) (hi : i = .accessWriteComplete) : Changes i s (completeWrite s a) := by
  rw [completeWrite_eq]
  refine (Relation.ReflTransGen.single (.write a hbus hwrite hi)).trans
    ((evaluateGrants_changes _).trans ((settleDrains_changes _).trans (warmStep_changes ?_)))
  rw [(settleDrains_requestSide _).bus, (evaluateGrants_requestSide _).bus, writeBack_bus]

theorem completeRefresh_changes {s : State} {r : RankId} {k : RefreshClass}
    (hbus : s.bus = some (.refresh r k)) (hk : k ≠ .wake) (hi : completes i = true) :
    Changes i s (completeRefresh s r) :=
  (Relation.ReflTransGen.single (.free (.refresh r k) _ hbus (by simp)
    ⟨rfl, rfl, rfl, rfl, .inl ⟨rfl, rfl, .inr ⟨rfl, r, k, rfl, hk⟩⟩⟩ hi)).trans (warmStep_changes rfl)

theorem completeClose_changes {s : State} {r : RankId} (hbus : s.bus = some (.close r))
    (hi : completes i = true) : Changes i s (completeClose s r) :=
  (Relation.ReflTransGen.single (.free (.close r) _ hbus (by simp)
    ⟨rfl, rfl, rfl, rfl, .inl ⟨rfl, rfl, .inl rfl⟩⟩ hi)).trans (warmStep_changes rfl)

theorem completeInitialization_changes {s : State} {r : RankId}
    (hbus : s.bus = some (.refresh r .wake)) (hi : completes i = true) :
    Changes i s (completeInitialization s r) := by
  unfold completeInitialization
  dsimp only
  split
  · have hfree := Change.free (i := i) (.refresh r .wake)
      (becomeReady s { goIdle (s.rank r) with
        wakeCount := (s.rank r).wakeCount - 1, rowCounter := (s.rank r).rowCounter + 1 })
      hbus (by simp) ⟨rfl, rfl, rfl, rfl, .inr ⟨rfl, rfl, rfl, r, rfl⟩⟩ hi
    refine (Relation.ReflTransGen.single hfree).trans ?_
    split
    · exact (setDeviceFlag_changes _ initDoneBit).trans (warmStep_changes rfl)
    · exact warmStep_changes rfl
  · exact (Relation.ReflTransGen.single (.free (.refresh r .wake) _ hbus (by simp)
      ⟨rfl, rfl, rfl, rfl, .inl ⟨rfl, rfl, .inl rfl⟩⟩ hi)).trans (warmStep_changes rfl)

/-! ### Bytes taken at a register -/

theorem takeWrite_changes {s : State} {x : Register} {effect : State → State}
    (h : Changes i s (effect s)) : Changes i s (takeWrite s x effect) := by
  unfold takeWrite
  split
  · exact .refl
  · exact h.trans (Adjusted.changes {})

theorem takeCommand_changes {s : State} {effect : State → State} (h : Changes i s (effect s)) :
    Changes i s (takeCommand s effect) := by
  refine takeWrite_changes ?_
  split
  · exact h
  · exact setDeviceFlag_changes s _

theorem enablePort_changes (p : Port) (s : State) : Changes i s (enablePort p s) := by
  unfold enablePort
  dsimp only
  split
  all_goals
    first
    | exact setPort_changes { garble := .inr (Nat.zero_le 3) } (.inr (.inl rfl)) rfl
    | exact .refl

theorem drainPort_changes (p : Port) (s : State) : Changes i s (drainPort p s) := by
  unfold drainPort
  dsimp only
  split
  next =>
    have hset : Changes i s (s.setPort p { s.port p with mode := .draining }) :=
      setPort_changes {} (.inr (.inr (.inl rfl))) rfl
    exact hset.trans (settleDrain_changes _ p)
  all_goals exact .refl

theorem revokeHold_changes (p : Port) (s : State) : Changes i s (revokeHold p s) :=
  (expireHold_changes s p _).trans (settleDrain_changes _ p)

theorem setPause_changes (b : Bool) (s : State) : Changes i s (setPause b s) :=
  Adjusted.changes {}

theorem clearRankDoubt_changes (r : RankId) (s : State) : Changes i s (clearRankDoubt r s) :=
  (Adjusted.ofSetRank {}).changes

theorem clearAllCounters_changes (s : State) : Changes i s (clearAllCounters s) := by
  refine Adjusted.changes
    { port := fun p => ?_, mode := fun p => ?_, snapshot := fun c _ => snapshotValue_clearAllCounters s c }
  · rw [clearAllCounters_port]
    exact {}
  · rw [clearAllCounters_port]
    exact .inl rfl

/-- A clamped value lies in its range (R172). -/
theorem clampByte_range {lo hi v : Byte} (h : lo.toNat ≤ hi.toNat) :
    lo.toNat ≤ (clampByte lo hi v).toNat ∧ (clampByte lo hi v).toNat ≤ hi.toNat := by
  unfold clampByte
  split_ifs <;> omega

theorem writeSetting_changes (x : Register) (v : Byte) (s : State) :
    Changes i s (writeSetting x v s) := by
  have hset : ∀ t : Settings, (s.settings.inRange → t.inRange) →
      (1 ≤ s.settings.threshold.toNat → 1 ≤ t.threshold.toNat) →
      Changes i s { s with settings := t } :=
    fun t hrange hthreshold => Adjusted.changes { settings := hrange, threshold := hthreshold }
  cases x with
  | discardSetting =>
    exact hset _ (fun ⟨_, h⟩ => ⟨(clampByte_range (lo := 1) (hi := 255) (by decide)).1, h⟩) id
  | holdTime =>
    exact hset _ (fun ⟨a, _, h⟩ => ⟨a, clampByte_range (lo := 1) (hi := 200) (by decide), h⟩) id
  | interval =>
    exact hset _
      (fun ⟨a, b, _, h⟩ => ⟨a, b, clampByte_range (lo := 10) (hi := 159) (by decide), h⟩) id
  | threshold =>
    exact hset _
      (fun ⟨a, b, c, _, h⟩ => ⟨a, b, c, clampByte_range (lo := 1) (hi := 8) (by decide), h⟩)
      fun _ => (clampByte_range (lo := 1) (hi := 8) (by decide)).1
  | streakLimit =>
    exact hset _
      (fun ⟨a, b, c, d, _⟩ => ⟨a, b, c, d, (clampByte_range (lo := 0) (hi := 15) (by decide)).2⟩) id
  | pagePolicy => exact hset _ id id
  | pullIn => exact hset _ id id
  | limit p =>
    exact setPort_changes
      { limit := .inr (clampByte_range (lo := 2) (hi := 10) (by decide)) } (.inl rfl) rfl
  | _ => exact .refl

theorem clearDeviceFlags_changes (v : Byte) (s : State) : Changes i s (clearDeviceFlags v s) :=
  Adjusted.changes {}

theorem writeDeviceMask_changes (v : Byte) (s : State) : Changes i s (writeDeviceMask v s) :=
  Adjusted.changes {}

theorem writeEventMask_changes (p : Port) (v : Byte) (s : State) :
    Changes i s (writeEventMask p v s) :=
  setPort_changes {} (.inl rfl) rfl

/-- A window replaced by one whose staged flag tells of any difference (R67). -/
theorem setWindow_changes {s : State} {w : WindowId} {v : Window}
    (h : v.staged = false → v.staging = v.active) : Changes i s (s.setWindow w v) := by
  refine Adjusted.changes { window := fun x => ?_ }
  by_cases hx : x = w
  · subst hx
    rw [State.setWindow_window_same]
    exact .inr h
  · rw [State.setWindow_window_ne _ _ hx]
    exact .inl rfl

theorem stageByte_changes (s : State) (w : WindowId) (f : StagingField) (v : Byte) :
    Changes i s (stageByte s w f v) :=
  setWindow_changes fun h => nomatch h

theorem activateWindow_changes (s : State) (w : WindowId) (v : Byte) :
    Changes i s (activateWindow s w v) :=
  setWindow_changes fun _ => rfl

theorem refuseCommand_changes (s : State) : Changes i s (refuseCommand s) :=
  setDeviceFlag_changes s _

theorem commandEffect_changes {v : Byte} {s : State} (hi : beginsWarmReset i) :
    Changes i s (commandEffect v s) := by
  have hidle : ∀ effect : State → State, Changes i s (effect s) →
      Changes i s (if s.warm = .idle then effect s else refuseCommand s) := by
    intro effect h
    split
    · exact h
    · exact refuseCommand_changes s
  unfold commandEffect
  dsimp only
  split
  · exact hidle _ (enablePort_changes _ s)
  · exact hidle _ (drainPort_changes _ s)
  · exact hidle _ (revokeHold_changes _ s)
  · exact hidle _ (setPause_changes _ s)
  · exact hidle _ (setPause_changes _ s)
  · exact hidle _ (clearRankDoubt_changes _ s)
  · exact hidle _ (clearAllCounters_changes s)
  · exact hidle _ (beginWarmReset_changes hi)
  · exact refuseCommand_changes s

/-- The command register's write has a row of its own (R172). -/
theorem hasOwnWriteRow_of_command {index : Byte} (h : registerAt index = .command) :
    hasOwnWriteRow index = true := by
  revert h
  revert index
  decide

theorem execRegisterWrite_changes (index v : Byte) (s : State) :
    Changes (.registerWrite index v) s
      (if s.powerOnAsserted then s
        else { writeEffect (registerAt index) v s with indexPointer := index + 1 }) := by
  split
  · exact .refl
  · refine Relation.ReflTransGen.trans (b := writeEffect (registerAt index) v s) ?_
      (Adjusted.changes {})
    unfold writeEffect
    split
    · exact clearDeviceFlags_changes v s
    · exact writeDeviceMask_changes v s
    · next h => exact commandEffect_changes (.inr ⟨index, v, rfl, hasOwnWriteRow_of_command h⟩)
    · exact writeEventMask_changes _ v s
    · exact stageByte_changes s _ _ v
    · exact activateWindow_changes s _ v
    · exact writeSetting_changes _ v s

/-- Loading a snapshot touches nothing of a port's unit but its snapshots. -/
theorem loadSnapshot_field {α : Type} (s : State) (c : CounterId) (v : BitVec 16) (f : PortUnit → α)
    (hf : ∀ u x, f { u with snapshots := x } = f u) (q : Port) :
    f ((loadSnapshot s c v).port q) = f (s.port q) := by
  cases c with
  | port p k =>
    by_cases hq : q = p
    · subst hq; rw [loadSnapshot, State.setPort_port_same, hf]
    · rw [loadSnapshot, State.setPort_port_ne _ _ hq]
  | device k => rfl
  | row r => rfl

theorem snapshotValue_loadSnapshot_ne (s : State) {c d : CounterId} (v : BitVec 16) (h : d ≠ c) :
    snapshotValue (loadSnapshot s c v) d = snapshotValue s d := by
  cases c with
  | port p k =>
    cases d with
    | port q j =>
      by_cases hq : q = p
      · subst hq
        rw [snapshotValue, loadSnapshot, State.setPort_port_same]
        exact PortCounters.get_set_ne _ _ fun hj => h (by rw [hj])
      · rw [snapshotValue, loadSnapshot, State.setPort_port_ne _ _ hq]; rfl
    | device j => rfl
    | row r => rfl
  | device k =>
    cases d with
    | device j => exact DeviceCounters.get_set_ne _ _ fun hj => h (by rw [hj])
    | port q j => rfl
    | row r => rfl
  | row r =>
    cases d with
    | row x => exact PerRank.get_set_ne _ _ fun hj => h (by rw [hj])
    | port q j => rfl
    | device j => rfl

theorem readCounterLow_changes (c : CounterId) (s : State) :
    Changes (.counterLowByteRead c) s (readCounterLow s c) := by
  have hload : ∀ v, Adjusted (.counterLowByteRead c) s (loadSnapshot s c v) := by
    intro v
    have hmode : ∀ q, ((loadSnapshot s c v).port q).mode = (s.port q).mode :=
      loadSnapshot_field s c v (·.mode) fun _ _ => rfl
    have hport : ∀ q, (s.port q).Adjusted ((loadSnapshot s c v).port q) := fun q =>
      { queue := loadSnapshot_field s c v (·.queue) (fun _ _ => rfl) q
        taken := loadSnapshot_field s c v (·.taken) (fun _ _ => rfl) q
        written := loadSnapshot_field s c v (·.written) (fun _ _ => rfl) q
        hold := loadSnapshot_field s c v (·.hold) (fun _ _ => rfl) q
        limit := .inl (loadSnapshot_field s c v (·.limit) (fun _ _ => rfl) q)
        garble := .inl (loadSnapshot_field s c v (·.garbleCount) (fun _ _ => rfl) q) }
    have hsnapshot : ∀ d, Instr.counterLowByteRead c ≠ .counterLowByteRead d →
        snapshotValue (loadSnapshot s c v) d = snapshotValue s d :=
      fun d hd => snapshotValue_loadSnapshot_ne s v fun h => hd (by rw [h])
    cases c <;> exact { port := hport, mode := fun q => .inl (hmode q), snapshot := hsnapshot }
  exact (hload _).changes.trans (Adjusted.changes {})

end

/-! ### Every command -/

theorem execAccessReadComplete_changes {s t : State}
    (h : execAccessReadComplete s = .next t) : Changes .accessReadComplete s t := by
  unfold execAccessReadComplete at h
  split at h
  next a hbus =>
    split_ifs at h with hwrite hin
    · rw [← Host.Outcome.next.inj h]
    · rw [← Host.Outcome.next.inj h]; exact completeRead_changes hbus (Bool.eq_false_iff.mpr hwrite) rfl
  next => rw [← Host.Outcome.next.inj h]

theorem execAccessWriteComplete_changes {s t : State}
    (h : execAccessWriteComplete s = .next t) : Changes .accessWriteComplete s t := by
  unfold execAccessWriteComplete at h
  split at h
  next a hbus =>
    split_ifs at h with hread hin
    · rw [← Host.Outcome.next.inj h]
    · rw [← Host.Outcome.next.inj h]; exact completeWrite_changes hbus (by simpa using hread) rfl
  next => rw [← Host.Outcome.next.inj h]

theorem execRefreshComplete_changes {s t : State}
    (h : execRefreshComplete s = .next t) : Changes .refreshComplete s t := by
  unfold execRefreshComplete at h
  split at h
  next r hbus =>
    rw [← Host.Outcome.next.inj h]
    exact completeRefresh_changes (k := .forced) hbus (fun hk => nomatch hk) rfl
  next r hbus =>
    rw [← Host.Outcome.next.inj h]
    exact completeRefresh_changes (k := .pullIn) hbus (fun hk => nomatch hk) rfl
  next => rw [← Host.Outcome.next.inj h]

theorem execInitializationRefreshComplete_changes {s t : State}
    (h : execInitializationRefreshComplete s = .next t) : Changes .initializationRefreshComplete s t := by
  unfold execInitializationRefreshComplete at h
  split at h
  next r hbus => rw [← Host.Outcome.next.inj h]; exact completeInitialization_changes hbus rfl
  next => rw [← Host.Outcome.next.inj h]

theorem execCloseComplete_changes {s t : State}
    (h : execCloseComplete s = .next t) : Changes .closeComplete s t := by
  unfold execCloseComplete at h
  split at h
  next r hbus => rw [← Host.Outcome.next.inj h]; exact completeClose_changes hbus rfl
  next => rw [← Host.Outcome.next.inj h]

theorem execDiscardTimerExpiry_changes {i : Instr} {n : Slot} {s t : State}
    (h : execDiscardTimerExpiry n s = .next t) : Changes i s t := by
  unfold execDiscardTimerExpiry at h
  split at h
  next e he =>
    split_ifs at h with hready
    · rw [← Host.Outcome.next.inj h]
      exact (discardEntry_changes (List.mem_of_find?_eq_some he)).trans (settleDrain_changes _ _)
    · rw [← Host.Outcome.next.inj h]
  next => rw [← Host.Outcome.next.inj h]

theorem execIntervalTimerExpiry_changes {i : Instr} {r : RankId} {s t : State}
    (h : execIntervalTimerExpiry r s = .next t) : Changes i s t := by
  unfold execIntervalTimerExpiry at h
  split_ifs at h with hready
  · rw [← Host.Outcome.next.inj h]; exact intervalExpiry_changes hready.1
  · rw [← Host.Outcome.next.inj h]

theorem execPauseTimerExpiry_changes {i : Instr} {r : RankId} {s t : State}
    (h : execPauseTimerExpiry r s = .next t) : Changes i s t := by
  unfold execPauseTimerExpiry at h
  split_ifs at h with hpause
  · rw [← Host.Outcome.next.inj h]; exact .single (.wake r hpause.1)
  · rw [← Host.Outcome.next.inj h]

theorem execRowOpenTimerExpiry_changes {i : Instr} {r : RankId} {s t : State}
    (h : execRowOpenTimerExpiry r s = .next t) : Changes i s t := by
  unfold execRowOpenTimerExpiry at h
  split_ifs at h with hrow
  · rw [← Host.Outcome.next.inj h]
    exact (Adjusted.ofSetRank
      { closeDue := fun _ => .inr (Option.isSome_iff_ne_none.mp hrow)
        rowOpenTimer := fun hne => absurd rfl hne }).changes
  · rw [← Host.Outcome.next.inj h]

theorem execPut_changes {i : Instr} (p : Port) (tag : Byte) (addr : Addr) (len : Byte)
    (data : List LinkWord) (s : State) :
    Changes i s (endFrame s p tag fun s =>
      if sizeOk len data then judgePut p tag addr len data s else takeGarbled s p tag) := by
  refine endFrame_changes _ _ _ _ ?_
  split
  · exact judgePut_changes ..
  · exact takeGarbled_changes ..

theorem execPutSync_changes {i : Instr} (p : Port) (tag : Byte) (addr : Addr) (len : Byte)
    (data : List LinkWord) (s : State) :
    Changes i s (endFrame s p tag fun s =>
      if sizeOk len data then judgePutSync p tag addr len data s else takeGarbled s p tag) := by
  refine endFrame_changes _ _ _ _ ?_
  split
  · exact judgePutSync_changes ..
  · exact takeGarbled_changes ..

theorem execCounterLowByteRead_changes (c : CounterId) (s : State) :
    Changes (.counterLowByteRead c) s (if s.powerOnAsserted then s else readCounterLow s c) := by
  split
  · exact .refl
  · exact readCounterLow_changes c s

theorem execIndexPointerSet_changes {i : Instr} (v : Byte) (s : State) :
    Changes i s (if s.powerOnAsserted then s else { s with indexPointer := v }) := by
  split
  · exact .refl
  · exact Adjusted.changes {}

/-- Every command is a chain of elementary changes. -/
theorem exec_changes {i : Instr} {s t : State} (h : exec i s = .next t) : Changes i s t := by
  cases i with
  | accessReadComplete => exact execAccessReadComplete_changes h
  | accessWriteComplete => exact execAccessWriteComplete_changes h
  | refreshComplete => exact execRefreshComplete_changes h
  | initializationRefreshComplete => exact execInitializationRefreshComplete_changes h
  | closeComplete => exact execCloseComplete_changes h
  | discardTimerExpiry n => exact execDiscardTimerExpiry_changes h
  | intervalTimerExpiry r => exact execIntervalTimerExpiry_changes h
  | pauseTimerExpiry r => exact execPauseTimerExpiry_changes h
  | rowOpenTimerExpiry r => exact execRowOpenTimerExpiry_changes h
  | fetch p tag addr len => cases h; exact endFrame_changes _ _ _ _ (judgeFetch_changes ..)
  | put p tag addr len data => cases h; exact execPut_changes ..
  | putSync p tag addr len data => cases h; exact execPutSync_changes ..
  | claim p tag addr len => cases h; exact endFrame_changes _ _ _ _ (judgeClaim_changes ..)
  | drop p tag addr len => cases h; exact endFrame_changes _ _ _ _ (judgeDrop_changes ..)
  | status p tag addr len => cases h; exact endFrame_changes _ _ _ _ (judgeStatus_changes ..)
  | garbledFrame p tag => cases h; exact endFrame_changes _ _ _ _ (takeGarbled_changes ..)
  | unnamedKindFrame p kind tag addr len =>
    cases h; exact endFrame_changes _ _ _ _ (judgeUnnamed_changes ..)
  | decision => cases h; exact makeDecision_changes s
  | holdTimerExpiry p =>
    cases h; exact (expireHold_changes s p _).trans (settleDrain_changes _ p)
  | portResetAssert p => cases h; exact assertPortReset_changes s p
  | portResetRelease p => cases h; exact setPort_changes {} (.inl rfl) rfl
  | powerOnResetAssert =>
    cases h; exact .single (.power false 0 0 true (s.powerOns + 1) 0 (.inl rfl))
  | powerOnResetRelease sel a b =>
    cases h; exact .single (.power sel a b false s.powerOns _ (.inr ⟨sel, a, b, rfl⟩))
  | enable p => cases h; exact takeCommand_changes (enablePort_changes p s)
  | drain p => cases h; exact takeCommand_changes (drainPort_changes p s)
  | revoke p => cases h; exact takeCommand_changes (revokeHold_changes p s)
  | refreshPause => cases h; exact takeCommand_changes (setPause_changes _ s)
  | refreshResume => cases h; exact takeCommand_changes (setPause_changes _ s)
  | clearDoubt r => cases h; exact takeCommand_changes (clearRankDoubt_changes r s)
  | clearCounters => cases h; exact takeCommand_changes (clearAllCounters_changes s)
  | warmReset => cases h; exact takeCommand_changes (beginWarmReset_changes (.inl rfl))
  | unknownCommand value => cases h; exact takeWrite_changes (refuseCommand_changes s)
  | deviceFlagsWrite v => cases h; exact takeWrite_changes (clearDeviceFlags_changes v s)
  | windowStagingWrite w f v => cases h; exact takeWrite_changes (stageByte_changes s w f v)
  | windowControlWrite w v => cases h; exact takeWrite_changes (activateWindow_changes s w v)
  | deviceFlagMaskWrite v => cases h; exact takeWrite_changes (writeDeviceMask_changes v s)
  | eventMaskWrite p v => cases h; exact takeWrite_changes (writeEventMask_changes p v s)
  | registerWrite index v => cases h; exact execRegisterWrite_changes index v s
  | counterLowByteRead c => cases h; exact execCounterLowByteRead_changes c s
  | frameBegin p => cases h; exact beginFrame_changes s p
  | answerSent p => cases h; exact finishAnswer_changes s p
  | indexPointerSet v => cases h; exact execIndexPointerSet_changes v s

/-- What every elementary change keeps, a chain of them keeps. -/
theorem Changes.keeps {i : Instr} {P : State → Prop} {s t : State}
    (h : Changes i s t) (hchange : ∀ s t, Change i s t → P s → P t) (hs : P s) : P t := by
  induction h with
  | refl => exact hs
  | tail _ hlast ih => exact hchange _ _ hlast ih

/-- What every elementary change and the tick of the timebase keep, every step keeps. -/
theorem step_keeps {P : State → Prop} (hchange : ∀ i s t, Change i s t → P s → P t)
    (htick : ∀ s, P s → P (tick s)) (hpending : ∀ s l, P s → P { s with pending := l })
    {s t : State} (hs : P s) (h : step s = .next t) : P t := by
  unfold step at h
  split at h
  next => cases h; exact htick s hs
  next c rest _ =>
    exact Changes.keeps (exec_changes h) (hchange c) (hpending s rest hs)

end Sys2Proof.Machine
end

section
/-! PROOF. What an elementary change makes of the request table: entries keep their number, port and kind,
and each entry of the new table is one of the old table's, changed in one of ten ways, or has become a leftover, or is created. -/

set_option Elab.async false

namespace Sys2Proof.Machine

/-! ### The completions' blocks -/

/-- A completed read changes the request side of the freed bus alone. -/
theorem readBack_requestSide (s : State) (a : Access) :
    RequestSide (freeBusAfterAccess s a) (readBack s a) := by
  unfold readBack
  dsimp only
  split
  · exact deliverRead_requestSide _ _ _
  · exact .refl _

/-- The memory after the write of an access. -/
def stored (s : State) (a : Access) : State :=
  { s with memory := s.memory.storeWords a.base.toNat (writeData s a) }

/-- A completed write changes the request side of the freed bus, over the new memory, alone. -/
theorem writeBack_requestSide (s : State) (a : Access) :
    RequestSide (freeBusAfterAccess (stored s a) a) (writeBack s a) :=
  (retireWrite_requestSide _ _).trans (coherenceSearch_requestSide _ _)

/-! ### Tables entry by entry -/

/-- Number, port and kind of an entry are another's. -/
def Entry.sameFrame (x e : Entry) : Prop :=
  x.slot = e.slot ∧ x.port = e.port ∧ x.kind = e.kind

theorem Entry.sameFrame.refl (e : Entry) : e.sameFrame e := ⟨rfl, rfl, rfl⟩

/-- Table `u` comes from table `t` by freeing entries and changing others in their places, with number,
port and kind kept (R3). -/
def TableFrom (u t : List Entry) : Prop :=
  List.SublistForall₂ Entry.sameFrame u t

theorem TableFrom.trans {u v t : List Entry} (h : TableFrom u v) (k : TableFrom v t) :
    TableFrom u t := by
  have : IsTrans Entry Entry.sameFrame :=
    ⟨fun _ _ _ ⟨a, b, c⟩ ⟨d, e, f⟩ => ⟨a.trans d, b.trans e, c.trans f⟩⟩
  exact IsTrans.trans (r := List.SublistForall₂ Entry.sameFrame) _ _ _ h k

theorem TableFrom.ofFilterMap {f : Entry → Option Entry}
    (hf : ∀ e x, f e = some x → x.sameFrame e) (t : List Entry) : TableFrom (t.filterMap f) t := by
  induction t with
  | nil => exact .nil
  | cons e t ih =>
    cases hx : f e with
    | none => rw [List.filterMap_cons_none hx]; exact .cons_right ih
    | some x => rw [List.filterMap_cons_some hx]; exact .cons (hf e x hx) ih

theorem TableFrom.ofMap {f : Entry → Entry} (hf : ∀ e, (f e).sameFrame e) (t : List Entry) :
    TableFrom (t.map f) t := by
  rw [← List.filterMap_eq_map]
  exact .ofFilterMap (fun e x hx => Option.some.inj hx ▸ hf e) t

theorem TableFrom.ofSublist {u t : List Entry} (h : u.Sublist t) : TableFrom u t := by
  induction h with
  | slnil => exact .nil
  | cons _ _ ih => exact .cons_right ih
  | cons_cons e _ ih => exact .cons (.refl e) ih

theorem TableFrom.slots {u t : List Entry} (h : TableFrom u t) :
    (u.map (·.slot)).Sublist (t.map (·.slot)) := by
  induction h with
  | nil => exact List.nil_sublist _
  | cons hx _ ih => rw [List.map_cons, List.map_cons, hx.1]; exact ih.cons_cons _
  | cons_right _ ih => exact ih.cons _

/-- What is told of an entry by its port and kind is true of no more entries than before. -/
theorem TableFrom.countP_le {u t : List Entry} (h : TableFrom u t) (q : Port → EntryKind → Bool) :
    (u.countP fun e => q e.port e.kind) ≤ t.countP fun e => q e.port e.kind := by
  induction h with
  | nil => exact Nat.zero_le _
  | cons hx _ ih =>
    obtain ⟨-, hp, hk⟩ := hx
    rw [List.countP_cons, List.countP_cons, hp, hk]
    exact Nat.add_le_add_right ih _
  | cons_right _ ih => exact ih.trans (List.Sublist.countP_le (List.sublist_cons_self ..))

theorem updateEntry_tableFrom (s : State) (n : Slot) {f : Entry → Entry}
    (hf : ∀ e, (f e).sameFrame e) : TableFrom (updateEntry s n f).table s.table := by
  refine .ofMap (fun e => ?_) _
  split
  · exact hf e
  · exact .refl e

theorem coherenceSearch_tableFrom (s : State) (ws : List Nat) :
    TableFrom (coherenceSearch s ws).table s.table := by
  refine .ofFilterMap (fun e x hx => ?_) _
  split at hx
  · unfold invalidate at hx
    split at hx
    · cases hx
    · cases hx; exact .refl e
  · cases hx; exact .refl e

theorem retireWrite_tableFrom (s : State) (a : Access) :
    TableFrom (retireWrite s a).table s.table := by
  unfold retireWrite
  split
  · refine .ofMap (fun e => ?_) _
    unfold meetFence
    split <;> exact .refl e
  · split
    · unfold deliverWrite
      split
      · exact .ofSublist List.filter_sublist
      · exact updateEntry_tableFrom _ _ Entry.sameFrame.refl
    · exact .ofSublist (List.Sublist.refl _)

theorem readBack_tableFrom (s : State) (a : Access) : TableFrom (readBack s a).table s.table := by
  unfold readBack
  dsimp only
  split
  · unfold deliverRead
    split
    · exact .ofSublist List.filter_sublist
    · exact updateEntry_tableFrom _ _ Entry.sameFrame.refl
  · exact .ofSublist (List.Sublist.refl _)

theorem cleanedUp_tableFrom (s : State) (p : Port) : TableFrom (cleanedUp s p).table s.table := by
  refine TableFrom.trans (.ofMap (fun e => ?_) _) (.ofSublist List.filter_sublist)
  split <;> exact .refl e

theorem issueAccess_table (s : State) (c : Candidate) :
    (issueAccess s c).table =
      match c.work with
      | .entry n => s.table.map fun e => if e.slot = n then { e with state := .issued } else e
      | .putHead => s.table := by
  unfold issueAccess markIssued
  cases c.work <;> rfl

/-- An elementary change frees entries and changes others in their places, or creates one. -/
theorem Change.outline {i : Instr} {s t : State} (h : Change i s t) :
    TableFrom t.table s.table ∨
      ∃ kept e, Creates s kept e ∧ t = { s with table := kept ++ [e] } := by
  cases h with
  | adjust h => rw [h.table]; exact .inl (.ofSublist (List.Sublist.refl _))
  | shrink kept h => exact .inl (.ofSublist h)
  | create kept e h => exact .inr ⟨kept, e, h, rfl⟩
  | leave e n => exact .inl (updateEntry_tableFrom s _ Entry.sameFrame.refl)
  | grant c => exact .inl (updateEntry_tableFrom s _ Entry.sameFrame.refl)
  | withdraw p => exact .inl (.ofMap (fun e => by split <;> exact .refl e) _)
  | release p kept h => exact .inl (.ofSublist h)
  | cleanup p m => exact .inl (cleanedUp_tableFrom _ p)
  | access c =>
    refine .inl ?_
    rw [issueAccess_table]
    split
    · exact updateEntry_tableFrom s _ Entry.sameFrame.refl
    · exact .ofSublist (List.Sublist.refl _)
  | read a => exact .inl (readBack_tableFrom s a)
  | write a =>
    exact .inl ((coherenceSearch_tableFrom _ _).trans (retireWrite_tableFrom _ a))
  | clear => exact .inl (.ofSublist (List.nil_sublist _))
  | power => exact .inl (.ofSublist (List.nil_sublist _))
  | enqueue | refresh | close | free | wake => exact .inl (.ofSublist (List.Sublist.refl _))

theorem slotsDistinct_tick {s : State} (h : slotsDistinct s) : slotsDistinct (tick s) := by
  have hmap : (tick s).table.map (·.slot) = s.table.map (·.slot) := by
    simp [tick, Function.comp_def]
  rwa [slotsDistinct, hmap]

/-- Entry numbers stay distinct (R1). -/
theorem Change.keepsSlots {i : Instr} {s t : State} (h : Change i s t) (hs : slotsDistinct s) :
    slotsDistinct t := by
  obtain hfrom | ⟨kept, e, hnew, rfl⟩ := h.outline
  · exact hs.sublist hfrom.slots
  · unfold slotsDistinct at *
    rw [List.map_append, List.map_singleton, ← List.concat_eq_append, List.nodup_concat]
    refine ⟨fun hmem => ?_, hs.sublist (hnew.sublist.map _)⟩
    obtain ⟨x, hx, hxe⟩ := List.mem_map.mp hmem
    exact hnew.free x hx hxe

/-! ### Where an entry comes from -/

/-- The words that the completion of a read hands to its entry. -/
def readWordsOf (s : State) (a : Access) : List ReadWord :=
  s.memory.readWords s.powerOns a.base.toNat a.words

/-- The access in progress serves the ISSUED entry, which is no orphan. -/
structure Serves (s : State) (a : Access) (e : Entry) : Prop where
  bus : s.bus = some (.access a)
  work : a.work = .entry e.slot
  issued : e.state = .issued
  live : e.orphan = false

/-- What an elementary change can make of an entry that it leaves in the table, but for the formation of
a leftover. -/
inductive EntryChange (s : State) (e : Entry) : Entry → Prop where
  | same : EntryChange s e e
  /-- It is granted (R83). -/
  | granted (hkind : e.kind = .claim) (hqueued : e.state = .queued)
      (hgrantable : grantable s e = true) : EntryChange s e (e.granted s)
  /-- Its hold has been taken (R88). -/
  | withdrawn (p : Port) (h : isGrantedClaim p e = true) :
      EntryChange s e { e with result := some false }
  /-- Its port has been cleaned up (R24). -/
  | orphaned (h : e.state = .issued) : EntryChange s e { e with orphan := true }
  /-- It is issued (R97). -/
  | issued (h : mayIssue s e) (hbus : s.bus = none) : EntryChange s e { e with state := .issued }
  /-- Its read completes (R4). -/
  | read (a : Access) (h : Serves s a e) (hread : a.write = false) :
      EntryChange s e
        { e with state := .ready, readData := readWordsOf s a, discardTimer := freshDiscard s }
  /-- Its write completes (R5). -/
  | written (a : Access) (h : Serves s a e) (hwrite : a.write = true) (r : Option Bool) :
      EntryChange s e { e with state := .ready, result := r, discardTimer := freshDiscard s }
  /-- Its fence is met (R54). -/
  | met (h : e.state = .queued) : EntryChange s e { e with fenceMet := true }
  /-- Its words have been overwritten (R59). -/
  | stale (hkind : e.kind = .fetch) (hready : e.state = .ready) (hleft : e.leftover = false) :
      EntryChange s e { e with state := .queued, readData := [], discardTimer := none }
  /-- A FETCH that a write served, and overwrote: none is formed (R96), and the model gives it this. -/
  | rewritten (a : Access) (h : Serves s a e) (hwrite : a.write = true) (hkind : e.kind = .fetch)
      (hleft : e.leftover = false) (r : Option Bool) :
      EntryChange s e
        { e with state := .queued, readData := [], result := r, discardTimer := none }

theorem mem_updateEntry {s : State} (hs : slotsDistinct s) {e x : Entry} (he : e ∈ s.table)
    {f : Entry → Entry} (hx : x ∈ (updateEntry s e.slot f).table) :
    (x ∈ s.table ∧ x.slot ≠ e.slot) ∨ x = f e := by
  obtain ⟨y, hy, rfl⟩ := List.mem_map.mp hx
  split
  next h => rw [slotsDistinct_eq hs hy he h]; exact .inr rfl
  next h => exact .inl ⟨hy, h⟩

theorem mem_freeEntry {s : State} {n : Slot} {x : Entry} (hx : x ∈ (freeEntry s n).table) :
    x ∈ s.table ∧ x.slot ≠ n := by
  obtain ⟨hmem, hne⟩ := List.mem_filter.mp hx
  exact ⟨hmem, by simpa using hne⟩

/-- The entry that an access serves is one of the table. -/
theorem issuedEntry_eq_some {s : State} {a : Access} {e : Entry} (h : issuedEntry s a = some e) :
    e ∈ s.table ∧ a.work = .entry e.slot ∧ e.state = .issued := by
  unfold issuedEntry at h
  split at h
  next n hwork =>
    split at h
    next x hx =>
      split_ifs at h with hissued
      cases h
      have hslot := List.find?_some hx
      exact ⟨List.mem_of_find?_eq_some hx, by rw [hwork, beq_iff_eq.mp hslot], hissued⟩
    next => cases h
  next => cases h

theorem mem_readBack {s : State} (hs : slotsDistinct s) {a : Access}
    (hbus : s.bus = some (.access a)) (hread : a.write = false) {x : Entry}
    (hx : x ∈ (readBack s a).table) : ∃ e ∈ s.table, EntryChange s e x := by
  unfold readBack at hx
  dsimp only at hx
  split at hx
  next e he =>
    obtain ⟨hmem, hwork, hissued⟩ := issuedEntry_eq_some he
    unfold deliverRead at hx
    split at hx
    next => exact ⟨x, (mem_freeEntry hx).1, .same⟩
    next horphan =>
      obtain ⟨hxs, -⟩ | rfl := mem_updateEntry hs hmem hx
      · exact ⟨x, hxs, .same⟩
      · exact ⟨e, hmem, .read a ⟨hbus, hwork, hissued, Bool.eq_false_iff.mpr horphan⟩ hread⟩
  next => exact ⟨x, hx, .same⟩

theorem mem_coherenceSearch {s : State} {ws : List Nat} {x : Entry}
    (hx : x ∈ (coherenceSearch s ws).table) :
    (x ∈ s.table ∧ madeStale ws x = false) ∨
      ∃ e ∈ s.table, madeStale ws e = true ∧ e.leftover = false ∧
        x = { e with state := .queued, readData := [], discardTimer := none } := by
  obtain ⟨e, he, hex⟩ := List.mem_filterMap.mp hx
  split_ifs at hex with hstale
  · unfold invalidate at hex
    split_ifs at hex with hleft
    cases hex
    exact .inr ⟨e, he, hstale, Bool.eq_false_iff.mpr hleft, rfl⟩
  · cases hex
    exact .inl ⟨he, Bool.eq_false_iff.mpr hstale⟩

/-- What the completion of a write makes of the entries before the coherence search. -/
theorem mem_retireWrite {s : State} (hs : slotsDistinct s) {a : Access} {x : Entry}
    (hx : x ∈ (retireWrite s a).table) :
    x ∈ s.table ∨
      (∃ e ∈ s.table, e.state = .queued ∧ x = { e with fenceMet := true }) ∨
        ∃ e ∈ s.table, a.work = .entry e.slot ∧ e.state = .issued ∧ e.orphan = false ∧
          x = { e with
            state := .ready, result := some (anyMarked e.writeData)
            discardTimer := freshDiscard s } := by
  unfold retireWrite at hx
  split at hx
  next =>
    obtain ⟨e, he, rfl⟩ := List.mem_map.mp hx
    unfold meetFence
    split
    next h => exact .inr (.inl ⟨e, he, h.2.1, rfl⟩)
    next => exact .inl he
  next =>
    split at hx
    next e he =>
      obtain ⟨hmem, hwork, hissued⟩ := issuedEntry_eq_some he
      unfold deliverWrite at hx
      split at hx
      next => exact .inl (mem_freeEntry hx).1
      next horphan =>
        obtain ⟨hxs, -⟩ | rfl := mem_updateEntry hs hmem hx
        · exact .inl hxs
        · exact .inr (.inr ⟨e, hmem, hwork, hissued, Bool.eq_false_iff.mpr horphan, rfl⟩)
    next => exact .inl hx

theorem madeStale_kind {ws : List Nat} {e : Entry} (h : madeStale ws e = true) :
    e.kind = .fetch ∧ e.state = .ready := by
  simp only [madeStale, Bool.and_eq_true, beq_iff_eq] at h
  exact h.1

theorem mem_writeBack {s : State} (hs : slotsDistinct s) {a : Access}
    (hbus : s.bus = some (.access a)) (hwrite : a.write = true) {x : Entry}
    (hx : x ∈ (writeBack s a).table) : ∃ e ∈ s.table, EntryChange s e x := by
  have hretire := fun y => mem_retireWrite (s := freeBusAfterAccess (stored s a) a) (a := a) hs (x := y)
  obtain ⟨hmem, -⟩ | ⟨y, hmem, hstale, hleft, rfl⟩ := mem_coherenceSearch hx
  · obtain hold | ⟨e, he, hq, rfl⟩ | ⟨e, he, hwork, hissued, horphan, rfl⟩ := hretire x hmem
    · exact ⟨x, hold, .same⟩
    · exact ⟨e, he, .met hq⟩
    · exact ⟨e, he, .written a ⟨hbus, hwork, hissued, horphan⟩ hwrite _⟩
  · obtain ⟨hkind, hready⟩ := madeStale_kind hstale
    obtain hold | ⟨e, he, hq, rfl⟩ | ⟨e, he, hwork, hissued, horphan, rfl⟩ := hretire y hmem
    · exact ⟨y, hold, .stale hkind hready hleft⟩
    · rw [show _ = EntryState.ready from hready] at hq; cases hq
    · exact ⟨e, he, .rewritten a ⟨hbus, hwork, hissued, horphan⟩ hwrite hkind hleft _⟩

theorem mem_cleanedUp {s : State} {p : Port} {x : Entry} (hx : x ∈ (cleanedUp s p).table) :
    (x ∈ s.table ∧ x.port ≠ p) ∨
      ∃ e ∈ s.table, e.port = p ∧ e.state = .issued ∧ x = { e with orphan := true } := by
  obtain ⟨e, he, rfl⟩ := List.mem_map.mp hx
  obtain ⟨hmem, hkept⟩ := List.mem_filter.mp he
  simp only [decide_eq_true_eq] at hkept
  split
  next hp =>
    refine .inr ⟨e, hmem, hp, ?_, rfl⟩
    exact hkept.resolve_left fun hne => hne hp
  next hp => exact .inl ⟨hmem, hp⟩

/-- The work that a port offers: its oldest issuable entry, or the head of its queue (R102). -/
theorem accessCandidate_eq_some {s : State} {p : Port} {c : Candidate}
    (h : accessCandidate s p = some c) :
    (∃ e ∈ s.table, e.port = p ∧ mayIssue s e ∧ candidateOfEntry e = some c) ∨
      ∃ q rest, (s.port p).queue = q :: rest ∧ placeReady s (some q.place) = true ∧
        c = candidateOfHead p q := by
  have hentry : ∀ e, oldestIssuable s p = some e → candidateOfEntry e = some c →
      ∃ e ∈ s.table, e.port = p ∧ mayIssue s e ∧ candidateOfEntry e = some c := by
    intro e he hc
    have hfound := List.find?_some he
    simp only [Bool.and_eq_true, beq_iff_eq] at hfound
    exact ⟨e, List.mem_of_find?_eq_some he, hfound.1, (issuable_iff s e).mp hfound.2, hc⟩
  have hhead : ∀ q, readyHead s p = some q → c = candidateOfHead p q →
      ∃ q rest, (s.port p).queue = q :: rest ∧ placeReady s (some q.place) = true ∧
        c = candidateOfHead p q := by
    intro q hq hc
    unfold readyHead at hq
    split at hq
    next => cases hq
    next x rest hx =>
      split_ifs at hq with hready
      cases hq
      exact ⟨q, rest, hx, hready.1, hc⟩
  unfold accessCandidate at h
  split at h
  next e q he hq =>
    split at h
    · exact .inl (hentry _ ‹_› h)
    · exact .inr (hhead _ ‹_› (Option.some.inj h).symm)
  next => exact .inl (hentry _ ‹_› h)
  next q _ hq => exact .inr (hhead q hq (Option.some.inj h).symm)
  next => cases h

theorem candidateOfEntry_eq_some {e : Entry} {c : Candidate} (h : candidateOfEntry e = some c) :
    c.port = e.port ∧ c.work = .entry e.slot ∧ c.write = (e.kind == .putSync) ∧
      e.place = some c.place ∧ c.base = e.addr ∧ c.words = e.accessWords := by
  unfold candidateOfEntry at h
  obtain ⟨place, hplace, rfl⟩ := Option.map_eq_some_iff.mp h
  exact ⟨rfl, rfl, rfl, hplace, rfl, rfl⟩

/-- At the issue of an ACCESS the table changes at most at the entry it serves. -/
theorem mem_issueAccess {s : State} (hs : slotsDistinct s) {c : Candidate}
    (hc : accessCandidate s c.port = some c) {x : Entry} (hx : x ∈ (issueAccess s c).table) :
    (x ∈ s.table ∧ ∀ n, c.work = .entry n → x.slot ≠ n) ∨
      ∃ e ∈ s.table, mayIssue s e ∧ candidateOfEntry e = some c ∧
        x = { e with state := .issued } := by
  rw [issueAccess_table] at hx
  obtain ⟨e, he, hport, hmay, hcand⟩ | ⟨q, rest, -, -, hcq⟩ := accessCandidate_eq_some hc
  · have hwork := (candidateOfEntry_eq_some hcand).2.1
    rw [hwork] at hx
    obtain ⟨hxs, hne⟩ | rfl := mem_updateEntry hs he (f := fun e => { e with state := .issued }) hx
    · exact .inl ⟨hxs, fun n hn => by rw [hwork] at hn; cases hn; exact hne⟩
    · exact .inr ⟨e, he, hmay, hcand, rfl⟩
  · have hwork : c.work = .putHead := by rw [hcq]; rfl
    rw [hwork] at hx
    exact .inl ⟨hx, fun n hn => by rw [hwork] at hn; cases hn⟩

theorem mem_withdraw {s : State} {p : Port} {x : Entry}
    (hx : x ∈ (withdrawClaim (freeHold s p) p).table) :
    (x ∈ s.table ∧ isGrantedClaim p x = false) ∨
      ∃ e ∈ s.table, isGrantedClaim p e = true ∧ x = { e with result := some false } := by
  obtain ⟨e, he, rfl⟩ := List.mem_map.mp hx
  split
  next h => exact .inr ⟨e, he, h, rfl⟩
  next h => exact .inl ⟨he, Bool.eq_false_iff.mpr h⟩

/-- Every entry after an elementary change was there before, changed in one of the ways of
`EntryChange`; or it is a leftover just formed, or has just been created. -/
theorem Change.mem {i : Instr} {s t : State} (h : Change i s t) (hs : slotsDistinct s)
    {x : Entry} (hx : x ∈ t.table) :
    (∃ e ∈ s.table, EntryChange s e x) ∨
      (∃ e n, Leaves s e n ∧ x = e.restAfter s e n ∧
        t = updateEntry s e.slot fun x => x.restAfter s e n) ∨
      ∃ kept, Creates s kept x ∧ t = { s with table := kept ++ [x] } := by
  cases h with
  | adjust h => rw [h.table] at hx; exact .inl ⟨x, hx, .same⟩
  | shrink kept h => exact .inl ⟨x, h.mem hx, .same⟩
  | create kept e h =>
    rcases List.mem_append.mp hx with hx | hx
    · exact .inl ⟨x, h.sublist.mem hx, .same⟩
    · rw [List.mem_singleton.mp hx]; exact .inr (.inr ⟨kept, h, rfl⟩)
  | leave e n h =>
    obtain ⟨hxs, -⟩ | rfl := mem_updateEntry hs h.mem hx
    · exact .inl ⟨x, hxs, .same⟩
    · exact .inr (.inl ⟨e, n, h, rfl, rfl⟩)
  | grant c hgrantable hmem =>
    obtain ⟨hc, hkind, hqueued⟩ := hmem hs
    obtain ⟨hxs, -⟩ | rfl := mem_updateEntry hs hc (f := fun e => e.granted s) hx
    · exact .inl ⟨x, hxs, .same⟩
    · exact .inl ⟨c, hc, .granted hkind hqueued hgrantable⟩
  | withdraw p =>
    obtain ⟨hxs, -⟩ | ⟨e, he, hgranted, rfl⟩ := mem_withdraw hx
    · exact .inl ⟨x, hxs, .same⟩
    · exact .inl ⟨e, he, .withdrawn p hgranted⟩
  | release p kept h => exact .inl ⟨x, h.mem hx, .same⟩
  | cleanup p m =>
    obtain ⟨hxs, -⟩ | ⟨e, he, -, hissued, rfl⟩ := mem_cleanedUp hx
    · exact .inl ⟨x, hxs, .same⟩
    · exact .inl ⟨e, he, .orphaned hissued⟩
  | access c hbus hc =>
    obtain ⟨hxs, -⟩ | ⟨e, he, hmay, -, rfl⟩ := mem_issueAccess hs hc hx
    · exact .inl ⟨x, hxs, .same⟩
    · exact .inl ⟨e, he, .issued hmay hbus⟩
  | read a hbus hread => exact .inl (mem_readBack hs hbus hread hx)
  | write a hbus hwrite => exact .inl (mem_writeBack hs hbus hwrite hx)
  | clear => cases hx
  | power => cases hx
  | enqueue | refresh | close | free | wake => exact .inl ⟨x, hx, .same⟩

/-- The entries after a tick are those before, but for the time their timers have left. -/
theorem mem_tick {s : State} {x : Entry} (hx : x ∈ (tick s).table) :
    ∃ e ∈ s.table, x = { e with discardTimer := tickTimer e.discardTimer } := by
  obtain ⟨e, he, rfl⟩ := List.mem_map.mp hx
  exact ⟨e, he, rfl⟩

end Sys2Proof.Machine
end

section
/-! PROOF. What an elementary change makes of a port unit, and the laws of the table's size (R15), its
keys (R7) and its discard timers (R18). -/

set_option Elab.async false

namespace Sys2Proof.Machine

/-! ### Port units -/

/-- What an elementary change from `s` to `t` can make of the unit of port `p`. -/
inductive PortChange (s t : State) (p : Port) : PortUnit → Prop where
  | adjusted {v : PortUnit} (h : (s.port p).Adjusted v) (hmode : modeMoves s p v.mode) :
      PortChange s t p v
  /-- A CLAIM of the port is granted (R83). -/
  | granted (c : Entry) (hport : c.port = p) (hgrantable : grantable s c = true)
      (hmem : slotsDistinct s → c ∈ s.table ∧ c.kind = .claim ∧ c.state = .queued)
      (ht : t = grant s c) :
      PortChange s t p { s.port p with hold := some (holdOf s c), lastHoldExpired := false }
  /-- Its hold ends and its claim is withdrawn (R88). -/
  | withdrawn (ht : t = withdrawClaim (freeHold s p) p) :
      PortChange s t p { s.port p with hold := none }
  /-- Its hold is released (R35, R90). -/
  | released (kept : List Entry) (h : kept.Sublist s.table)
      (hclaims : claimLaw s → ∀ x ∈ kept, isGrantedClaim p x = false)
      (ht : t = { freeHold s p with table := kept }) :
      PortChange s t p { s.port p with hold := none }
  /-- It is cleaned up (R162). -/
  | cleaned (m : PortMode) (h : m = (s.port p).mode ∨ m = .fault)
      (ht : t = cleanedUp (s.setPort p { s.port p with mode := m }) p) :
      PortChange s t p
        { s.port p with
          mode := m, hold := none, lastHoldExpired := false, garbleCount := 0, flags := 0
          record := emptyRecord }
  /-- A PUT joins its queue (R47). -/
  | enqueued (q : PutEntry) (hseq : q.seq = (s.port p).taken + 1) (hroom : queueFull s p = false)
      (hfree : putHeldBack s p q.span = false) (hfits : wordsFit s q.addr q.length) :
      PortChange s t p
        { s.port p with taken := (s.port p).taken + 1, queue := (s.port p).queue ++ [q] }
  /-- The head of its queue is issued (R97). -/
  | issued (q : PutEntry) (rest : List PutEntry) (h : (s.port p).queue = q :: rest) :
      PortChange s t p { s.port p with queue := { q with inFlight := true } :: rest }
  /-- The head of its queue has been written (R51). -/
  | retired (a : Access) (hbus : s.bus = some (.access a)) (hwrite : a.write = true)
      (hport : a.port = p) (hwork : a.work = .putHead) (ht : t = writeBack s a) :
      PortChange s t p
        { s.port p with queue := (s.port p).queue.tail, written := (s.port p).written + 1 }
  /-- The clearing point of a warm reset (R182). -/
  | cleared (hbus : s.bus = none) (ht : t = clearAll s) : PortChange s t p (clearedPort (s.port p))
  /-- Power-on reset (R186). -/
  | powered (htable : t.table = []) (hbus : t.bus = none) :
      PortChange s t p (linkOutside (s.port p))

theorem PortChange.same (s t : State) (p : Port) : PortChange s t p (s.port p) :=
  .adjusted (.refl _) (.inl rfl)

/-- A change of port `p`'s unit alone. -/
theorem PortChange.ofSetPort {s t : State} {p : Port} {v : PortUnit} (h : PortChange s t p v)
    (q : Port) : PortChange s t q ((s.setPort p v).port q) := by
  by_cases hq : q = p
  · subst hq; rwa [State.setPort_port_same]
  · rw [State.setPort_port_ne _ _ hq]; exact .same s t q

theorem readBack_port (s : State) (a : Access) (p : Port) : (readBack s a).port p = s.port p := by
  unfold readBack
  dsimp only
  split
  · unfold deliverRead; split <;> rfl
  · rfl

/-- A completed write changes its port's unit at most, and there the put queue. -/
theorem writeBack_ports (s : State) (a : Access) :
    (writeBack s a).ports =
      match a.work with
      | .putHead =>
        s.ports.set a.port
          { s.port a.port with
            queue := (s.port a.port).queue.tail, written := (s.port a.port).written + 1 }
      | .entry _ => s.ports := by
  have hsearch : (writeBack s a).ports = (retireWrite (freeBusAfterAccess (stored s a) a) a).ports :=
    rfl
  rw [hsearch]
  unfold retireWrite
  cases a.work with
  | putHead => rfl
  | entry n =>
    dsimp only
    split
    · unfold deliverWrite; split <;> rfl
    · rfl

theorem cleanedUp_port (s : State) (p : Port) :
    (cleanedUp s p).port p =
      { s.port p with
        hold := none, lastHoldExpired := false, garbleCount := 0, flags := 0
        record := emptyRecord } :=
  PerPort.get_set_same _ _ _

theorem cleanedUp_port_ne (s : State) {p q : Port} (h : q ≠ p) :
    (cleanedUp s p).port q = s.port q :=
  PerPort.get_set_ne _ _ h

theorem issueAccess_ports (s : State) (c : Candidate) :
    (issueAccess s c).ports =
      match c.work with
      | .entry _ => s.ports
      | .putHead =>
        s.ports.set c.port
          { s.port c.port with
            queue :=
              match (s.port c.port).queue with
              | [] => []
              | q :: qs => { q with inFlight := true } :: qs } := by
  unfold issueAccess markIssued
  cases c.work <;> rfl

/-- An elementary change makes of a port's unit one of the changes of `PortChange`. -/
theorem Change.port {i : Instr} {s t : State} (h : Change i s t) (p : Port) :
    PortChange s t p (t.port p) := by
  cases h with
  | adjust h => exact .adjusted (h.port p) (h.mode p)
  | grant c hgrantable hmem =>
    by_cases hp : p = c.port
    · subst hp; rw [grant_port_same]; exact .granted c rfl hgrantable hmem rfl
    · rw [grant_port_ne s c hp]; exact .same s _ p
  | withdraw q => exact (PortChange.withdrawn rfl).ofSetPort p
  | release q kept h hclaims => exact (PortChange.released kept h hclaims rfl).ofSetPort p
  | cleanup q m h =>
    by_cases hp : p = q
    · subst hp
      rw [cleanedUp_port, State.setPort_port_same]
      exact .cleaned m h rfl
    · rw [cleanedUp_port_ne _ hp, State.setPort_port_ne _ _ hp]; exact .same s _ p
  | enqueue q addr n words w place hroom hfree hfits =>
    exact (PortChange.enqueued
      { seq := (s.port q).taken + 1, addr := addr, length := n, words := words, place := place
        window := w, inFlight := false } rfl hroom hfree hfits).ofSetPort p
  | access c hbus hc =>
    rw [State.port, issueAccess_ports]
    obtain ⟨e, -, -, -, hcand⟩ | ⟨q, rest, hq, -, hcq⟩ := accessCandidate_eq_some hc
    · rw [(candidateOfEntry_eq_some hcand).2.1]; exact .same s _ p
    · have hwork : c.work = .putHead := by rw [hcq]; rfl
      rw [hwork]
      simp only [hq]
      exact (PortChange.issued q rest hq).ofSetPort p
  | read a => rw [readBack_port]; exact .same s _ p
  | write a hbus hwrite =>
    rw [State.port, writeBack_ports]
    split
    next hwork => exact (PortChange.retired a hbus hwrite rfl hwork rfl).ofSetPort p
    next => exact .same s _ p
  | clear hbus => rw [clearAll_port]; exact .cleared hbus rfl
  | power =>
    change PortChange s _ p ((s.ports.map linkOutside).get p)
    rw [PerPort.get_map]
    exact .powered rfl rfl
  | shrink | create | leave | refresh | close | free | wake => exact .same s _ p

theorem tick_port (s : State) (p : Port) : (tick s).port p = tickPort (s.port p) :=
  PerPort.get_map _ _ _

/-! ### The reserve -/

/-- Every entry is one of the four ports'. -/
theorem length_eq_held (t : List Entry) :
    t.length = (t.countP fun e => e.port == 0) + (t.countP fun e => e.port == 1) +
      (t.countP fun e => e.port == 2) + t.countP fun e => e.port == 3 := by
  induction t with
  | nil => rfl
  | cons e t ih =>
    simp only [List.length_cons, List.countP_cons, ih]
    generalize e.port = p
    fin_cases p <;> simp <;> omega

/-- The FREE entries cover the shortfall of all four ports when the four held counts, each counted as 2
at least, come to 16 at most. -/
theorem reserve_iff (s : State) :
    s.table.length + (allPorts.map (shortfall s)).sum ≤ 16 ↔
      max 2 (heldCount s 0) + max 2 (heldCount s 1) + max 2 (heldCount s 2) +
        max 2 (heldCount s 3) ≤ 16 := by
  have h := length_eq_held s.table
  simp only [allPorts, List.map_cons, List.map_nil, List.sum_cons, List.sum_nil, shortfall]
  simp only [heldCount]
  omega

theorem Port.cases (p : Port) : p = 0 ∨ p = 1 ∨ p = 2 ∨ p = 3 := by
  revert p
  decide

/-- The shortfall of the other three ports, port by port. -/
theorem shortfallOfOthers_eq (s : State) (p : Port) :
    shortfallOfOthers s p + shortfall s p =
      shortfall s 0 + shortfall s 1 + shortfall s 2 + shortfall s 3 := by
  fin_cases p <;> simp [shortfallOfOthers, allPorts] <;> omega

theorem Change.limit_le {i : Instr} {s t : State} (h : Change i s t) (p : Port)
    (hs : (s.port p).limit.toNat ≤ 10) : (t.port p).limit.toNat ≤ 10 := by
  have hport := h.port p
  generalize t.port p = v at hport
  cases hport with
  | adjusted h => exact h.limit.elim (fun h => h ▸ hs) And.right
  | cleared => exact (by decide : (6 : Byte).toNat ≤ 10)
  | powered => exact (by decide : (6 : Byte).toNat ≤ 10)
  | _ => exact hs

/-- The reserve outlasts any change that leaves each port no more entries. -/
theorem reserveLaw_of_held_le {s t : State} (hs : reserveLaw s)
    (hheld : ∀ p, heldCount t p ≤ heldCount s p) (hlimit : ∀ p, (t.port p).limit.toNat ≤ 10) :
    reserveLaw t := by
  obtain ⟨hsum, hports⟩ := hs
  rw [reserve_iff] at hsum
  refine ⟨?_, fun p => ⟨(hheld p).trans (hports p).1, hlimit p⟩⟩
  rw [reserve_iff]
  have h0 := hheld 0; have h1 := hheld 1; have h2 := hheld 2; have h3 := hheld 3
  omega

/-- A created entry keeps the reserve: either the reserve and limit allow it, or it stands in place of
another of its port (R15, R16). -/
theorem reserveLaw_create {s : State} {kept : List Entry} {e : Entry} (hs : reserveLaw s)
    (h : Creates s kept e) : reserveLaw { s with table := kept ++ [e] } := by
  have hcount : ∀ p, heldCount { s with table := kept ++ [e] } p =
      (kept.countP fun x => x.port == p) + if e.port = p then 1 else 0 := by
    intro p
    simp [heldCount, List.countP_append, List.countP_cons]
  have hle : ∀ p, (kept.countP fun x => x.port == p) ≤ heldCount s p :=
    fun p => h.sublist.countP_le
  obtain ⟨hfull, hadmits⟩ | hless := h.room
  · obtain ⟨hsum, hports⟩ := hs
    subst hfull
    have hheld : ∀ p, (s.table.countP fun x => x.port == p) = heldCount s p := fun _ => rfl
    simp only [hheld] at hcount
    obtain ⟨hbelow, hreserve⟩ := (Bool.and_eq_true _ _).mp hadmits
    have hbelow := of_decide_eq_true hbelow
    have hreserve := of_decide_eq_true hreserve
    unfold limitInEffect at hbelow
    have hlimit := (hports e.port).2
    refine ⟨?_, fun p => ⟨?_, (hports p).2⟩⟩
    · rw [reserve_iff] at hsum ⊢
      have hothers := shortfallOfOthers_eq s e.port
      have hlength := length_eq_held s.table
      simp only [hheld] at hlength
      simp only [hcount]
      simp only [shortfall] at hothers
      generalize e.port = p at *
      obtain rfl | rfl | rfl | rfl := Port.cases p <;> simp <;> omega
    · rw [hcount]
      have hp := (hports p).1
      split
      next heq => subst heq; omega
      next => omega
  · refine reserveLaw_of_held_le hs (fun p => ?_) fun p => (hs.2 p).2
    rw [hcount]
    have hp := hle p
    split
    next heq => subst heq; exact hless
    next => exact hp

theorem Change.keepsReserve {i : Instr} {s t : State} (h : Change i s t) (hs : reserveLaw s) :
    reserveLaw t := by
  obtain hfrom | ⟨kept, e, hnew, rfl⟩ := h.outline
  · exact reserveLaw_of_held_le hs (fun p => hfrom.countP_le fun q _ => q == p)
      fun p => h.limit_le p (hs.2 p).2
  · exact reserveLaw_create hs hnew

end Sys2Proof.Machine
end

section
/-! PROOF. What every step keeps of the request table: the reserve (R15), the keys (R7), the discard timers
(R18) and the port states (R159). -/

set_option Elab.async false

namespace Sys2Proof.Machine

/-! ### Keys -/

theorem tick_tableFrom (s : State) : TableFrom (tick s).table s.table :=
  .ofMap (f := fun e => { e with discardTimer := tickTimer e.discardTimer }) (fun e => .refl e) _

/-- A change of an entry keeps number, port, kind and address, and brings no orphan back. -/
theorem EntryChange.key {s : State} {e x : Entry} (h : EntryChange s e x) :
    x.slot = e.slot ∧ x.port = e.port ∧ x.kind = e.kind ∧ x.addr = e.addr ∧
      (x.orphan = false → e.orphan = false) := by
  cases h with
  | orphaned => exact ⟨rfl, rfl, rfl, rfl, fun h => nomatch h⟩
  | _ => exact ⟨rfl, rfl, rfl, rfl, id⟩

/-- The key of an entry just created, or of a leftover just formed, is no other entry's (R7, R11). -/
theorem slot_eq_of_new {s t : State} (hs : slotsDistinct s) {x y : Entry}
    (hnew : (∃ e n, Leaves s e n ∧ x = e.restAfter s e n ∧
        t = updateEntry s e.slot fun x => x.restAfter s e n) ∨
      ∃ kept, Creates s kept x ∧ t = { s with table := kept ++ [x] })
    (hy : y ∈ t.table) (hlive : y.orphan = false) (hp : x.port = y.port) (hk : x.kind = y.kind)
    (ha : x.addr = y.addr) : x.slot = y.slot := by
  obtain ⟨e, n, hleaves, rfl, rfl⟩ | ⟨kept, hcreates, rfl⟩ := hnew
  · obtain ⟨hys, -⟩ | rfl := mem_updateEntry hs hleaves.mem hy
    · have hheld := (fetchKeyHeld_iff s e.port (addWords e.addr n)).mpr
        ⟨y, hys, ⟨hp.symm, hk.symm.trans hleaves.kind, ha.symm⟩, hlive⟩
      rw [hleaves.key] at hheld
      cases hheld
    · rfl
  · rcases List.mem_append.mp hy with hy | hy
    · exact absurd ⟨hp.symm, hk.symm, ha.symm⟩ (hcreates.fresh y (hcreates.sublist.mem hy))
    · rw [List.mem_singleton.mp hy]

theorem Change.keepsKeys {i : Instr} {s t : State} (h : Change i s t) (hs : keyLaw s) :
    keyLaw t := by
  obtain ⟨hslots, hkeys⟩ := hs
  refine ⟨h.keepsSlots hslots, fun x hx y hy hxlive hylive hp hk ha => ?_⟩
  obtain ⟨e, he, hex⟩ | hnew := h.mem hslots hx
  · obtain ⟨f, hf, hfy⟩ | hnew := h.mem hslots hy
    · obtain ⟨hslot, hp₁, hk₁, ha₁, ho₁⟩ := hex.key
      obtain ⟨hslot', hp₂, hk₂, ha₂, ho₂⟩ := hfy.key
      rw [hslot, hslot']
      exact hkeys e he f hf (ho₁ hxlive) (ho₂ hylive) (by rw [← hp₁, ← hp₂, hp])
        (by rw [← hk₁, ← hk₂, hk]) (by rw [← ha₁, ← ha₂, ha])
    · exact (slot_eq_of_new hslots hnew hx hxlive hp.symm hk.symm ha.symm).symm
  · exact slot_eq_of_new hslots hnew hy hylive hp hk ha

theorem keyLaw_tick {s : State} (hs : keyLaw s) : keyLaw (tick s) := by
  obtain ⟨hslots, hkeys⟩ := hs
  refine ⟨slotsDistinct_tick hslots, fun x hx y hy => ?_⟩
  obtain ⟨e, he, rfl⟩ := mem_tick hx
  obtain ⟨f, hf, rfl⟩ := mem_tick hy
  exact hkeys e he f hf

/-! ### Discard timers -/

/-- An entry's discard timer runs exactly while it is READY, and a leftover is a READY FETCH (R11, R18). -/
def Entry.timed (e : Entry) : Prop :=
  (e.state = .ready ↔ e.discardTimer ≠ none) ∧
    (e.leftover = true → e.kind = .fetch ∧ e.state = .ready)

theorem timerLaw_and_leftoverLaw_iff (s : State) :
    timerLaw s ∧ leftoverLaw s ↔ slotsDistinct s ∧ ∀ e ∈ s.table, e.timed := by
  simp only [timerLaw, leftoverLaw, Entry.timed, and_assoc]
  exact and_congr_right fun _ =>
    ⟨fun h e he => ⟨h.1 e he, h.2 e he⟩, fun h => ⟨fun e he => (h e he).1, fun e he => (h e he).2⟩⟩

/-- An entry that is not READY is no leftover and runs no timer. -/
theorem Entry.timed.off {e : Entry} (h : e.timed) (hstate : e.state ≠ .ready) :
    e.discardTimer = none ∧ e.leftover = false :=
  ⟨not_not.mp fun hne => hstate (h.1.mpr hne),
    Bool.eq_false_iff.mpr fun hleft => hstate (h.2 hleft).2⟩

theorem EntryChange.timed {s : State} {e x : Entry} (h : EntryChange s e x) (he : e.timed) :
    x.timed := by
  have hready : freshDiscard s ≠ none := fun h => nomatch h
  cases h with
  | same => exact he
  | withdrawn => exact he
  | orphaned => exact he
  | met => exact he
  | granted hkind hqueued =>
    have hoff := he.off (by rw [hqueued]; decide)
    exact ⟨iff_of_true rfl hready, fun hleft => by simp [Entry.granted, hoff.2] at hleft⟩
  | issued hmay =>
    have hoff := he.off (by rw [hmay.1]; decide)
    exact ⟨iff_of_false EntryState.noConfusion (fun hne => hne hoff.1), fun hleft => by simp [hoff.2] at hleft⟩
  | read a hserves =>
    have hoff := he.off (by rw [hserves.issued]; decide)
    exact ⟨iff_of_true rfl hready, fun hleft => by simp [hoff.2] at hleft⟩
  | written a hserves =>
    have hoff := he.off (by rw [hserves.issued]; decide)
    exact ⟨iff_of_true rfl hready, fun hleft => by simp [hoff.2] at hleft⟩
  | stale hkind hr hleft =>
    exact ⟨iff_of_false EntryState.noConfusion (fun hne => hne rfl), fun h => by simp [hleft] at h⟩
  | rewritten a hserves hwrite hkind hleft =>
    exact ⟨iff_of_false EntryState.noConfusion (fun hne => hne rfl), fun h => by simp [hleft] at h⟩

theorem Change.keepsTimers {i : Instr} {s t : State} (h : Change i s t)
    (hs : slotsDistinct s ∧ ∀ e ∈ s.table, e.timed) : slotsDistinct t ∧ ∀ e ∈ t.table, e.timed := by
  obtain ⟨hslots, htimed⟩ := hs
  refine ⟨h.keepsSlots hslots, fun x hx => ?_⟩
  obtain ⟨e, he, hex⟩ | ⟨e, n, hleaves, rfl, -⟩ | ⟨kept, hcreates, -⟩ := h.mem hslots hx
  · exact hex.timed (htimed e he)
  · have hready : e.state = .ready := hleaves.ready.elim (fun hl => ((htimed e hleaves.mem).2 hl).2) id
    exact ⟨iff_of_true hready (fun h => nomatch h), fun _ => ⟨hleaves.kind, hready⟩⟩
  · exact ⟨iff_of_false (by rw [hcreates.state]; decide) (fun hne => hne hcreates.timer),
      fun hleft => by rw [hcreates.leftover] at hleft; cases hleft⟩

theorem timers_tick {s : State} (hs : slotsDistinct s ∧ ∀ e ∈ s.table, e.timed) :
    slotsDistinct (tick s) ∧ ∀ e ∈ (tick s).table, e.timed := by
  refine ⟨slotsDistinct_tick hs.1, fun x hx => ?_⟩
  obtain ⟨e, he, rfl⟩ := mem_tick hx
  have := hs.2 e he
  exact ⟨this.1.trans (by simp [tickTimer]), this.2⟩

/-! ### Port states -/

/-- An orphan is ISSUED, and a CLAIM never is (R6, R13). -/
def Entry.statesOk (e : Entry) : Prop :=
  (e.orphan = true → e.state = .issued) ∧ (e.kind = .claim → e.state ≠ .issued)

theorem EntryChange.claimNotIssued {s : State} {e x : Entry} (h : EntryChange s e x)
    (he : e.kind = .claim → e.state ≠ .issued) : x.kind = .claim → x.state ≠ .issued := by
  cases h with
  | same => exact he
  | withdrawn => exact he
  | orphaned => exact he
  | met => exact he
  | issued hmay => exact fun hk => absurd hk hmay.2.1
  | granted => exact fun _ => EntryState.noConfusion
  | read => exact fun _ => EntryState.noConfusion
  | written => exact fun _ => EntryState.noConfusion
  | stale => exact fun _ => EntryState.noConfusion
  | rewritten => exact fun _ => EntryState.noConfusion

theorem EntryChange.statesOk {s : State} {e x : Entry} (h : EntryChange s e x) (he : e.statesOk) :
    x.statesOk := by
  refine ⟨?_, h.claimNotIssued he.2⟩
  have hlive : e.state ≠ .issued → e.orphan = true → x.state = .issued :=
    fun hne ho => absurd (he.1 ho) hne
  cases h with
  | same => exact he.1
  | withdrawn => exact he.1
  | met => exact he.1
  | orphaned hissued => exact fun _ => hissued
  | issued => exact fun _ => rfl
  | granted _ hqueued => exact hlive (by rw [hqueued]; decide)
  | stale _ hready => exact hlive (by rw [hready]; decide)
  | read _ hserves | written _ hserves | rewritten _ hserves =>
    exact fun ho => absurd (hserves.live.symm.trans ho) Bool.noConfusion

/-- An entry after a change is of a port that had one, or of an ACTIVE port (R37). -/
theorem Change.port_of_mem {i : Instr} {s t : State} (h : Change i s t) (hs : slotsDistinct s)
    {x : Entry} (hx : x ∈ t.table) :
    (∃ e ∈ s.table, e.port = x.port) ∨ (t.port x.port).mode = .active := by
  obtain ⟨e, he, hex⟩ | ⟨e, n, hleaves, rfl, -⟩ | ⟨kept, hcreates, rfl⟩ := h.mem hs hx
  · exact .inl ⟨e, he, hex.key.2.1.symm⟩
  · exact .inl ⟨e, hleaves.mem, rfl⟩
  · exact .inr hcreates.mode

/-- In state `s` port `p` holds neither entry nor hold. -/
def unused (s : State) (p : Port) : Prop :=
  (∀ e ∈ s.table, e.port ≠ p) ∧ (s.port p).hold = none

/-- In state `s` port `p` holds no entry but orphans, and no hold. -/
def faulted (s : State) (p : Port) : Prop :=
  (∀ e ∈ s.table, e.port = p → e.orphan = true) ∧ (s.port p).hold = none

theorem portStateLaw_iff (s : State) :
    portStateLaw s ↔
      slotsDistinct s ∧ (∀ e ∈ s.table, e.statesOk) ∧
        ∀ p, ((s.port p).mode = .off ∨ (s.port p).mode = .quiet → unused s p) ∧
          ((s.port p).mode = .fault → faulted s p) := by
  simp only [portStateLaw, claimStateLaw, Entry.statesOk, unused, faulted, forall_and, and_assoc]

/-- What an elementary change leaves of an OFF or QUIET port's hold, and of the hold and entries of a
FAULT port. -/
theorem Change.keepsPortStates {i : Instr} {s t : State} (h : Change i s t) (hs : portStateLaw s) :
    portStateLaw t := by
  rw [portStateLaw_iff] at hs ⊢
  obtain ⟨hslots, hentries, hports⟩ := hs
  refine ⟨h.keepsSlots hslots, fun x hx => ?_, fun p => ?_⟩
  · obtain ⟨e, he, hex⟩ | ⟨e, n, hleaves, rfl, -⟩ | ⟨kept, hcreates, -⟩ := h.mem hslots hx
    · exact hex.statesOk (hentries e he)
    · exact hentries e hleaves.mem
    · exact ⟨fun ho => absurd (hcreates.orphan.symm.trans ho) Bool.noConfusion,
        fun _ hissued => absurd (hcreates.state.symm.trans hissued) EntryState.noConfusion⟩
  · have hgone : (t.port p).mode ≠ .active → unused s p → ∀ x ∈ t.table, x.port ≠ p := by
      intro hmode hunused x hx hp
      obtain ⟨e, he, hep⟩ | hact := h.port_of_mem hslots hx
      · exact hunused.1 e he (hep.trans hp)
      · exact hmode (hp ▸ hact)
    have horphans : (t.port p).mode ≠ .active → faulted s p →
        ∀ x ∈ t.table, x.port = p → x.orphan = true := by
      intro hmode hfaulted x hx hp
      obtain ⟨e, he, hex⟩ | ⟨e, n, hleaves, rfl, -⟩ | ⟨kept, hcreates, rfl⟩ := h.mem hslots hx
      · have ho := hfaulted.1 e he (hex.key.2.1.symm.trans hp)
        exact eq_true_of_ne_false fun hx => absurd ((hex.key.2.2.2.2 hx).symm.trans ho)
          Bool.noConfusion
      · have ho := hfaulted.1 e hleaves.mem hp
        rw [hleaves.live] at ho; cases ho
      · exact absurd (hp ▸ hcreates.mode) hmode
    have hkeep : (t.port p).mode = (s.port p).mode →
        ((t.port p).hold = (s.port p).hold ∨ (t.port p).hold = none) →
        ((t.port p).mode = .off ∨ (t.port p).mode = .quiet → unused t p) ∧
          ((t.port p).mode = .fault → faulted t p) := by
      intro hmode hhold
      refine ⟨fun hoff => ?_, fun hfault => ?_⟩
      · have hunused := (hports p).1 (hmode ▸ hoff)
        exact ⟨hgone (by rcases hoff with h | h <;> rw [h] <;> decide) hunused,
          hhold.elim (fun h => h.trans hunused.2) id⟩
      · have hfaulted := (hports p).2 (hmode ▸ hfault)
        exact ⟨horphans (by rw [hfault]; decide) hfaulted,
          hhold.elim (fun h => h.trans hfaulted.2) id⟩
    have hport := h.port p
    generalize hv : t.port p = v at hport
    cases hport with
    | adjusted hadjusted hmode =>
      rcases hmode with hm | hm | hm | ⟨hm, hdrained⟩
      · rw [← hv] at hm hadjusted ⊢
        exact hkeep hm (.inl hadjusted.hold)
      · rw [hm]; exact ⟨(fun h => nomatch h), (fun h => nomatch h)⟩
      · rw [hm]; exact ⟨(fun h => nomatch h), (fun h => nomatch h)⟩
      · obtain ⟨hnone, -, hhold⟩ := (drained_iff s p).mp hdrained
        refine ⟨fun _ => ⟨hgone (by rw [hv, hm]; decide) ⟨hnone, hhold⟩, ?_⟩,
          fun h => by rw [hm] at h; cases h⟩
        rw [hv, hadjusted.hold, hhold]
    | granted c hcp hgrantable hmem =>
      obtain ⟨hc, -, hqueued⟩ := hmem hslots
      refine ⟨fun hoff => absurd hcp (((hports p).1 hoff).1 c hc), fun hfault => ?_⟩
      have hissued := (hentries c hc).1 (((hports p).2 hfault).1 c hc hcp)
      rw [hqueued] at hissued
      cases hissued
    | cleaned m hm ht =>
      refine ⟨fun hoff => ⟨?_, by rw [hv]⟩, fun _ => ⟨fun x hx hxp => ?_, by rw [hv]⟩⟩
      · obtain rfl | rfl := hm
        · exact hgone (by rw [hv]; rcases hoff with h | h <;> rw [h] <;> decide) ((hports p).1 hoff)
        · rcases hoff with h | h <;> cases h
      · rw [ht] at hx
        obtain ⟨-, hne⟩ | ⟨e, -, -, -, rfl⟩ := mem_cleanedUp hx
        · exact absurd hxp hne
        · rfl
    | cleared _ ht =>
      rw [ht] at hv
      refine ⟨fun _ => ⟨fun x hx => absurd (ht ▸ hx) List.not_mem_nil, ?_⟩, fun h => nomatch h⟩
      rw [ht, hv]; rfl
    | powered htable =>
      refine ⟨fun _ => ⟨fun x hx => absurd (htable ▸ hx) List.not_mem_nil, ?_⟩, fun h => nomatch h⟩
      rw [hv]; rfl
    | withdrawn => rw [← hv]; exact hkeep (by rw [hv]) (.inr (by rw [hv]))
    | released => rw [← hv]; exact hkeep (by rw [hv]) (.inr (by rw [hv]))
    | enqueued => rw [← hv]; exact hkeep (by rw [hv]) (.inl (by rw [hv]))
    | issued => rw [← hv]; exact hkeep (by rw [hv]) (.inl (by rw [hv]))
    | retired => rw [← hv]; exact hkeep (by rw [hv]) (.inl (by rw [hv]))

theorem portStateLaw_tick {s : State} (hs : portStateLaw s) : portStateLaw (tick s) := by
  rw [portStateLaw_iff] at hs ⊢
  obtain ⟨hslots, hentries, hports⟩ := hs
  refine ⟨slotsDistinct_tick hslots, fun x hx => ?_, fun p => ?_⟩
  · obtain ⟨e, he, rfl⟩ := mem_tick hx
    exact hentries e he
  · rw [tick_port]
    refine ⟨fun hoff => ?_, fun hfault => ?_⟩
    · obtain ⟨hnone, hhold⟩ := (hports p).1 hoff
      refine ⟨fun x hx => ?_, by rw [tick_port, tickPort, hhold]; rfl⟩
      obtain ⟨e, he, rfl⟩ := mem_tick hx
      exact hnone e he
    · obtain ⟨horphans, hhold⟩ := (hports p).2 hfault
      refine ⟨fun x hx => ?_, by rw [tick_port, tickPort, hhold]; rfl⟩
      obtain ⟨e, he, rfl⟩ := mem_tick hx
      exact horphans e he

/-! ### The statements -/

theorem reserveLaw_tick {s : State} (hs : reserveLaw s) : reserveLaw (tick s) := by
  refine reserveLaw_of_held_le hs (fun p => (tick_tableFrom s).countP_le fun q _ => q == p)
    fun p => ?_
  rw [tick_port]
  exact (hs.2 p).2

/-- Settles O51: of the elementary changes only a creation adds an entry, and it does so under the reserve
and limit or in another entry's place. -/
theorem stepKeepsTheReserve : Obligations.StepKeepsTheReserve := by
  unfold Obligations.StepKeepsTheReserve
  intro s t hs h
  exact step_keeps (fun _ _ _ hchange => hchange.keepsReserve) (fun _ => reserveLaw_tick)
    (fun _ _ hs => hs) hs h

/-- Settles O52: a key is new only where the matching step or the leftover rule found it free, and a timer
starts and stops with READY. -/
theorem stepKeepsKeysAndDiscardTimers : Obligations.StepKeepsKeysAndDiscardTimers := by
  unfold Obligations.StepKeepsKeysAndDiscardTimers
  intro s t h
  refine ⟨fun hs => ?_, fun htimer hleft => ?_⟩
  · exact step_keeps (fun _ _ _ hchange => hchange.keepsKeys) (fun _ => keyLaw_tick)
      (fun _ _ hs => hs) hs h
  · rw [timerLaw_and_leftoverLaw_iff]
    exact step_keeps (fun _ _ _ hchange => hchange.keepsTimers) (fun _ => timers_tick)
      (fun _ _ hs => hs) ((timerLaw_and_leftoverLaw_iff s).mp ⟨htimer, hleft⟩) h

/-- Settles O56: only an ACTIVE port creates, a port becomes QUIET only when drained, and OFF and FAULT come
with a clearing of the port. -/
theorem stepKeepsPortStates : Obligations.StepKeepsPortStates := by
  unfold Obligations.StepKeepsPortStates
  intro s t hs h
  exact step_keeps (fun _ _ _ hchange => hchange.keepsPortStates) (fun _ => portStateLaw_tick)
    (fun _ _ hs => hs) hs h

end Sys2Proof.Machine
end

section
/-! PROOF. What every step keeps of the put queues (R48, R50) and the fences (R54). -/

set_option Elab.async false

namespace Sys2Proof.Machine

/-! ### The access in progress -/

/-- An ACCESS in progress after an elementary change was in progress before it, or has just been
issued. -/
theorem Change.bus_access {i : Instr} {s t : State} (h : Change i s t) {a : Access}
    (ha : t.bus = some (.access a)) :
    s.bus = some (.access a) ∨
      ∃ c, accessCandidate s c.port = some c ∧ a = accessOf s c ∧ t = issueAccess s c := by
  cases h with
  | adjust h => exact .inl (h.bus ▸ ha)
  | access c hbus hc => cases ha; exact .inr ⟨c, hc, rfl, rfl⟩
  | read b => rw [readBack_requestBus] at ha; cases ha
  | write b => rw [writeBack_bus] at ha; cases ha
  | cleanup p m => exact .inl ha
  | shrink | create | leave | grant | withdraw | release | enqueue | wake | clear => exact .inl ha
  | refresh | close | free | power => cases ha

/-! ### Put queues -/

/-- The queue holds at most 8 PUTs, as many as taken less written, numbered in the order taken. -/
def PortUnit.queueOrdered (u : PortUnit) : Prop :=
  u.queue.length ≤ 8 ∧ u.queue.length = (u.taken - u.written).toNat ∧
    u.queue.map (·.seq) = (List.range u.queue.length).map fun i => u.written + 1 + BitVec.ofNat 16 i

theorem queueLaw_iff (s : State) :
    queueLaw s ↔
      (∀ p, (s.port p).queueOrdered) ∧
        ∀ a, s.bus = some (.access a) → a.work = .putHead → (s.port a.port).queue ≠ [] :=
  Iff.rfl

/-- The taken count is the written count and the queue's length together. -/
theorem PortUnit.queueOrdered.taken_eq {u : PortUnit} (h : u.queueOrdered) :
    u.taken = u.written + BitVec.ofNat 16 u.queue.length := by
  obtain ⟨-, hlength, -⟩ := h
  rw [hlength, BitVec.ofNat_toNat, BitVec.setWidth_eq]
  bv_omega

/-- The head of a queue is numbered next after the written count (R50). -/
theorem PortUnit.queueOrdered.head_seq {u : PortUnit} (h : u.queueOrdered) {q : PutEntry}
    {rest : List PutEntry} (hq : u.queue = q :: rest) : q.seq = u.written + 1 := by
  obtain ⟨-, -, hseqs⟩ := h
  rw [hq, List.map_cons, List.length_cons, List.range_succ_eq_map, List.map_cons] at hseqs
  rw [(List.cons.inj hseqs).1]
  simp

/-- The last PUT of a queue is numbered by the taken count (R48). -/
theorem PortUnit.queueOrdered.exists_last {u : PortUnit} (h : u.queueOrdered)
    (hne : u.taken ≠ u.written) : ∃ q ∈ u.queue, q.seq = u.taken := by
  have htaken := h.taken_eq
  obtain ⟨-, -, hseqs⟩ := h
  obtain ⟨n, hn⟩ : ∃ n, u.queue.length = n + 1 := by
    refine Nat.exists_eq_succ_of_ne_zero fun h0 => hne ?_
    rw [htaken, h0]
    simp
  rw [hn] at htaken hseqs
  have hmem : u.written + 1 + BitVec.ofNat 16 n ∈ u.queue.map (·.seq) := by
    rw [hseqs]
    exact List.mem_map.mpr ⟨n, List.mem_range.mpr (Nat.lt_succ_self n), rfl⟩
  obtain ⟨q, hq, hseq⟩ := List.mem_map.mp hmem
  refine ⟨q, hq, hseq.trans ?_⟩
  rw [htaken]
  bv_omega

/-- A PUT at the tail under the advanced taken count keeps the order (R47, R48). -/
theorem PortUnit.queueOrdered.enqueued {u : PortUnit} (h : u.queueOrdered)
    (hroom : u.queue.length < 8) {q : PutEntry} (hq : q.seq = u.taken + 1) :
    ({ u with taken := u.taken + 1, queue := u.queue ++ [q] } : PortUnit).queueOrdered := by
  have htaken := h.taken_eq
  obtain ⟨-, -, hseqs⟩ := h
  generalize hn : u.queue.length = n at *
  refine ⟨by simp [hn]; omega, ?_, ?_⟩
  · dsimp only
    rw [List.length_append, hn, htaken]
    simp only [List.length_singleton]
    bv_omega
  · dsimp only
    rw [List.map_append, hseqs, List.length_append, List.length_singleton, hn, List.range_succ,
      List.map_append, List.map_singleton, List.map_singleton, hq, htaken]
    congr 2
    bv_omega

/-- The removal of the head under the advanced written count keeps the order (R51). -/
theorem PortUnit.queueOrdered.retired {u : PortUnit} (h : u.queueOrdered) (hne : u.queue ≠ []) :
    ({ u with queue := u.queue.tail, written := u.written + 1 } : PortUnit).queueOrdered := by
  have htaken := h.taken_eq
  obtain ⟨hle, -, hseqs⟩ := h
  obtain ⟨q, rest, hq⟩ := List.exists_cons_of_ne_nil hne
  rw [hq] at htaken hle hseqs
  rw [List.length_cons] at htaken hle hseqs
  unfold PortUnit.queueOrdered
  dsimp only
  rw [hq, List.tail_cons, htaken]
  refine ⟨by omega, by bv_omega, ?_⟩
  rw [List.map_cons, List.range_succ_eq_map, List.map_cons, List.map_map] at hseqs
  rw [(List.cons.inj hseqs).2]
  refine List.map_congr_left fun i _ => ?_
  simp only [Function.comp]
  bv_omega

theorem queueOrdered_idlePort : idlePort.queueOrdered := by
  unfold PortUnit.queueOrdered
  decide

/-- A port's queue keeps its order, when an ACCESS in progress for a queue head has one. -/
theorem PortChange.queueOrdered {s t : State} {p : Port} {v : PortUnit} (h : PortChange s t p v)
    (hs : queueLaw s) : v.queueOrdered := by
  obtain ⟨hports, hhead⟩ := hs
  have hp : (s.port p).queueOrdered := hports p
  cases h with
  | adjusted h =>
    unfold PortUnit.queueOrdered
    rw [h.queue, h.taken, h.written]
    exact hp
  | enqueued q hseq hroom =>
    exact hp.enqueued (Nat.lt_of_not_le (of_decide_eq_false hroom)) hseq
  | issued q rest hq =>
    unfold PortUnit.queueOrdered at hp ⊢
    rw [hq] at hp
    exact hp
  | retired a hbus hwrite hport hwork => exact hp.retired (hport ▸ hhead a hbus hwork)
  | cleared => exact queueOrdered_idlePort
  | powered => exact queueOrdered_idlePort
  | granted | withdrawn | released | cleaned => exact hp

/-- A queued PUT stays queued, but for the head of its queue at the completion of its write and for
resets. -/
theorem PortChange.mem_queue {s t : State} {p : Port} {v : PortUnit} (h : PortChange s t p v)
    {q : PutEntry} (hq : q ∈ (s.port p).queue) :
    (∃ r ∈ v.queue, r.seq = q.seq) ∨
      (∃ a rest, (s.port p).queue = q :: rest ∧ a.port = p ∧ a.work = .putHead ∧
        t = writeBack s a) ∨
      t.table = [] ∧ t.bus = none := by
  cases h with
  | adjusted h => exact .inl ⟨q, h.queue ▸ hq, rfl⟩
  | enqueued x => exact .inl ⟨q, List.mem_append_left _ hq, rfl⟩
  | issued x rest hx =>
    rw [hx] at hq
    obtain rfl | hq := List.mem_cons.mp hq
    · exact .inl ⟨_, List.mem_cons_self .., rfl⟩
    · exact .inl ⟨q, List.mem_cons_of_mem _ hq, rfl⟩
  | retired a hbus hwrite hport hwork ht =>
    obtain ⟨x, rest, hx⟩ := List.exists_cons_of_ne_nil (List.ne_nil_of_mem hq)
    rw [hx] at hq
    obtain rfl | hq := List.mem_cons.mp hq
    · exact .inr (.inl ⟨a, rest, hx, hport, hwork, ht⟩)
    · exact .inl ⟨q, by rw [hx]; exact hq, rfl⟩
  | cleared hbus ht => exact .inr (.inr ⟨by rw [ht]; rfl, by rw [ht]; exact hbus⟩)
  | powered htable hbus => exact .inr (.inr ⟨htable, hbus⟩)
  | granted | withdrawn | released | cleaned => exact .inl ⟨q, hq, rfl⟩

theorem Change.keepsQueues {i : Instr} {s t : State} (h : Change i s t) (hs : queueLaw s) :
    queueLaw t := by
  refine (queueLaw_iff t).mpr ⟨fun p => (h.port p).queueOrdered hs, fun a ha hwork => ?_⟩
  have hne : (s.port a.port).queue ≠ [] := by
    obtain hbus | ⟨c, hc, rfl, -⟩ := h.bus_access ha
    · exact hs.2 a hbus hwork
    · obtain ⟨e, -, -, -, hcand⟩ | ⟨q, rest, hq, -, -⟩ := accessCandidate_eq_some hc
      · rw [show (accessOf s c).work = c.work from rfl, (candidateOfEntry_eq_some hcand).2.1] at hwork
        cases hwork
      · exact hq ▸ List.cons_ne_nil q rest
  obtain ⟨q, hq⟩ := List.exists_mem_of_ne_nil _ hne
  obtain ⟨r, hr, -⟩ | ⟨b, rest, -, -, -, ht⟩ | ⟨-, hbus⟩ := (h.port a.port).mem_queue hq
  · exact List.ne_nil_of_mem hr
  · rw [ht, writeBack_bus] at ha; cases ha
  · rw [hbus] at ha; cases ha

theorem queueLaw_tick {s : State} (hs : queueLaw s) : queueLaw (tick s) := by
  refine (queueLaw_iff _).mpr ⟨fun p => ?_, fun a ha hwork => ?_⟩
  · rw [tick_port]; exact hs.1 p
  · rw [tick_port]; exact hs.2 a ha hwork

/-! ### Fences -/

/-- An entry that still awaits its fence awaits another PUT than the one written. -/
theorem meetFence_unmet {p : Port} {n : BitVec 16} {e : Entry}
    (h : (meetFence p n e).fenceMet = false) :
    meetFence p n e = e ∧ (e.port = p → e.state = .queued → e.kind ≠ .claim → e.fence ≠ n) := by
  unfold meetFence at h ⊢
  split at h
  next => cases h
  next hne => exact ⟨if_neg hne, fun hp hq hk hf => hne ⟨hp, hq, hk, hf⟩⟩

/-- After the head of a queue has been written, an entry that awaits its fence awaits another PUT (R51,
R54); or it was READY before. -/
theorem mem_writeBack_unmet {s : State} {a : Access} (hwork : a.work = .putHead) {x : Entry}
    (hx : x ∈ (writeBack s a).table) (hunmet : x.fenceMet = false) :
    (x.port = a.port → x.state = .queued → x.kind ≠ .claim →
        x.fence ≠ (s.port a.port).written + 1) ∨
      ∃ e ∈ s.table, e.kind ≠ .claim ∧ e.fenceMet = false ∧ e.state = .ready := by
  have hretire : ∀ y ∈ (retireWrite (freeBusAfterAccess (stored s a) a) a).table,
      y.fenceMet = false →
        y ∈ s.table ∧ (y.port = a.port → y.state = .queued → y.kind ≠ .claim →
          y.fence ≠ (s.port a.port).written + 1) := by
    intro y hy hy_unmet
    unfold retireWrite at hy
    rw [hwork] at hy
    obtain ⟨e, he, rfl⟩ := List.mem_map.mp hy
    obtain ⟨hsame, hfence⟩ := meetFence_unmet hy_unmet
    rw [hsame]
    exact ⟨he, hfence⟩
  obtain ⟨hmem, -⟩ | ⟨y, hmem, hstale, -, rfl⟩ := mem_coherenceSearch hx
  · exact .inl (hretire x hmem hunmet).2
  · obtain ⟨hkind, hready⟩ := madeStale_kind hstale
    exact .inr ⟨y, (hretire y hmem hunmet).1, by rw [hkind]; decide, hunmet, hready⟩

/-- An entry that awaits its fence is QUEUED and unchanged by what a change makes of entries. -/
theorem EntryChange.eq_of_fence {s : State} {e x : Entry} (h : EntryChange s e x)
    (hkind : x.kind ≠ .claim) (hunmet : x.fenceMet = false)
    (hqueued : e.kind ≠ .claim → e.fenceMet = false → e.state = .queued) : x = e := by
  cases h with
  | same => rfl
  | withdrawn p h => exact absurd ((isGrantedClaim_iff p e).mp h).2.1 hkind
  | granted hk => exact absurd hk hkind
  | issued hmay => exact absurd (hmay.2.2.2.1.symm.trans hunmet) Bool.noConfusion
  | met => cases hunmet
  | orphaned h => exact absurd (h.symm.trans (hqueued hkind hunmet)) EntryState.noConfusion
  | read a h | written a h | rewritten a h =>
    exact absurd (h.issued.symm.trans (hqueued hkind hunmet)) EntryState.noConfusion
  | stale _ h => exact absurd (h.symm.trans (hqueued hkind hunmet)) EntryState.noConfusion

theorem Change.keepsFences {i : Instr} {s t : State} (h : Change i s t) (hs : fenceLaw s) :
    fenceLaw t := by
  obtain ⟨hslots, hqueues, hfences⟩ := hs
  refine ⟨h.keepsSlots hslots, h.keepsQueues hqueues, fun x hx hkind hunmet => ?_⟩
  have hstays : ∀ q ∈ (s.port x.port).queue, q.seq = x.fence →
      (∀ a rest, (s.port x.port).queue = q :: rest → a.port = x.port → a.work = .putHead →
        t ≠ writeBack s a) →
      ∃ r ∈ (t.port x.port).queue, r.seq = x.fence := by
    intro q hq hseq hwritten
    obtain ⟨r, hr, hrq⟩ | ⟨a, rest, hcons, hport, hwork, ht⟩ | ⟨htable, -⟩ :=
      (h.port x.port).mem_queue hq
    · exact ⟨r, hr, hrq.trans hseq⟩
    · exact absurd ht (hwritten a rest hcons hport hwork)
    · rw [htable] at hx; cases hx
  obtain ⟨e, he, hex⟩ | ⟨e, n, hleaves, rfl, ht⟩ | ⟨kept, hcreates, rfl⟩ := h.mem hslots hx
  · obtain rfl := hex.eq_of_fence hkind hunmet fun hk hu => (hfences e he hk hu).1
    obtain ⟨hqueued, q, hq, hseq⟩ := hfences x he hkind hunmet
    refine ⟨hqueued, hstays q hq hseq fun a rest hcons hport hwork ht => ?_⟩
    rw [ht] at hx
    obtain hawaits | ⟨e, he, hk, hu, hready⟩ := mem_writeBack_unmet hwork hx hunmet
    · refine hawaits hport.symm hqueued hkind ?_
      rw [← hseq, PortUnit.queueOrdered.head_seq (hqueues.1 x.port) hcons, hport]
    · exact absurd (hready.symm.trans (hfences e he hk hu).1) EntryState.noConfusion
  · obtain ⟨hqueued, q, hq, hseq⟩ := hfences e hleaves.mem hkind hunmet
    refine ⟨hqueued, q, ?_, hseq⟩
    rw [ht]
    exact hq
  · refine ⟨hcreates.state, ?_⟩
    rw [hcreates.fenceMet, beq_eq_false_iff_ne] at hunmet
    rw [hcreates.fence]
    exact PortUnit.queueOrdered.exists_last (hqueues.1 x.port) hunmet

theorem fenceLaw_tick {s : State} (hs : fenceLaw s) : fenceLaw (tick s) := by
  obtain ⟨hslots, hqueues, hfences⟩ := hs
  refine ⟨slotsDistinct_tick hslots, queueLaw_tick hqueues, fun x hx => ?_⟩
  obtain ⟨e, he, rfl⟩ := mem_tick hx
  rw [tick_port]
  exact hfences e he

/-- Settles O53: a PUT joins under the advanced taken count and leaves under the advanced written count,
which meets the fences that name it. -/
theorem stepKeepsPutQueuesAndFences : Obligations.StepKeepsPutQueuesAndFences := by
  unfold Obligations.StepKeepsPutQueuesAndFences
  intro s t h
  exact ⟨fun hs => step_keeps (fun _ _ _ hchange => hchange.keepsQueues) (fun _ => queueLaw_tick)
      (fun _ _ hs => hs) hs h,
    fun hs => step_keeps (fun _ _ _ hchange => hchange.keepsFences) (fun _ => fenceLaw_tick)
      (fun _ _ hs => hs) hs h⟩

end Sys2Proof.Machine
end

section
/-! PROOF. What every step keeps of the holds and claims (R84) and of the exclusion around a hold (R85). -/

set_option Elab.async false

namespace Sys2Proof.Machine

/-! ### Holds -/

/-- A port's hold stays, ends, or is that of a claim just granted. -/
theorem PortChange.hold {s t : State} {p : Port} {v : PortUnit} (h : PortChange s t p v) :
    v.hold = (s.port p).hold ∨ v.hold = none ∨
      ∃ c, c.port = p ∧ grantable s c = true ∧ t = grant s c ∧ v.hold = some (holdOf s c) := by
  cases h with
  | adjusted h => exact .inl h.hold
  | granted c hport hgrantable hmem ht => exact .inr (.inr ⟨c, hport, hgrantable, ht, rfl⟩)
  | enqueued | issued | retired => exact .inl rfl
  | withdrawn | released | cleaned | cleared | powered => exact .inr (.inl rfl)

/-- An active hold after an elementary change was active before it, or has just been granted. -/
theorem Change.hold {i : Instr} {s t : State} (h : Change i s t) {p : Port} {x : Hold}
    (hx : (t.port p).hold = some x) :
    (s.port p).hold = some x ∨
      ∃ c, c.port = p ∧ grantable s c = true ∧ t = Machine.grant s c ∧ x.span = c.claimSpan := by
  obtain hsame | hnone | ⟨c, hport, hgrantable, ht, hhold⟩ := (h.port p).hold
  · exact .inl (hsame ▸ hx)
  · rw [hnone] at hx; cases hx
  · rw [hhold] at hx
    cases hx
    exact .inr ⟨c, hport, hgrantable, ht, rfl⟩

/-- A granted claim's span meets no active hold (R81). -/
theorem overlaps_of_grantable {s : State} {c : Entry} (hgrantable : grantable s c = true) {q : Port}
    {h : Hold} (hq : (s.port q).hold = some h) : h.span.overlaps c.claimSpan = false :=
  (Span.overlaps_eq_false_iff _ _).mpr (((grantable_iff s c).mp hgrantable).1 q h hq)

theorem Change.keepsHoldsDisjoint {i : Instr} {s t : State} (h : Change i s t)
    (hs : holdsDisjoint s) : holdsDisjoint t := by
  intro p q x y hpq hx hy
  obtain hxs | ⟨c, rfl, hgrantable, rfl, hspan⟩ := h.hold hx
  · obtain hys | ⟨c, rfl, hgrantable, rfl, hspan⟩ := h.hold hy
    · exact hs p q x y hpq hxs hys
    · rw [hspan]; exact overlaps_of_grantable hgrantable hxs
  · rw [grant_port_ne s c hpq.symm] at hy
    rw [hspan, Span.overlaps_comm]
    exact overlaps_of_grantable hgrantable hy

theorem tick_hold {s : State} {p : Port} {x : Hold} (hx : ((tick s).port p).hold = some x) :
    ∃ h, (s.port p).hold = some h ∧ x = { h with timer := h.timer - 1 } := by
  rw [tick_port] at hx
  obtain ⟨h, hh, rfl⟩ := Option.map_eq_some_iff.mp hx
  exact ⟨h, hh, rfl⟩

theorem holdsDisjoint_tick {s : State} (hs : holdsDisjoint s) : holdsDisjoint (tick s) := by
  intro p q x y hpq hx hy
  obtain ⟨h, hh, rfl⟩ := tick_hold hx
  obtain ⟨k, hk, rfl⟩ := tick_hold hy
  exact hs p q h k hpq hh hk

/-! ### Claims -/

/-- What the law of the claims looks at in a CLAIM entry is the same in another. -/
structure Entry.SameClaim (x e : Entry) : Prop where
  port : x.port = e.port := by rfl
  kind : x.kind = e.kind := by rfl
  state : x.state = e.state := by rfl
  result : x.result = e.result := by rfl
  addr : x.addr = e.addr := by rfl
  length : x.length = e.length := by rfl
  window : x.window = e.window := by rfl

theorem Entry.SameClaim.refl (e : Entry) : e.SameClaim e := {}

/-- A CLAIM entry beside its port's hold slot (R84). -/
def Entry.besideHold (e : Entry) (hold : Option Hold) : Prop :=
  (e.state = .queued → hold = none) ∧
    (e.state = .ready → e.result = some true →
      ∃ h, hold = some h ∧ h.base = e.addr ∧ h.units = e.length ∧ h.window = e.window) ∧
    (e.state = .ready → e.result ≠ some true → hold = none)

theorem claimLaw_iff (s : State) :
    claimLaw s ↔
      slotsDistinct s ∧
        (∀ p, (s.table.countP fun e => e.port == p && e.kind == .claim) ≤ 1) ∧
          ∀ e ∈ s.table, e.kind = .claim → e.besideHold (s.port e.port).hold :=
  and_congr_right fun _ =>
    ⟨fun h => ⟨fun p => (h p).1, fun e he hk => (h e.port).2 e he rfl hk⟩,
      fun h p => ⟨h.1 p, fun e he hp hk => hp ▸ h.2 e he hk⟩⟩

theorem Entry.SameClaim.besideHold {x e : Entry} (h : x.SameClaim e) {hold : Option Hold}
    (he : e.besideHold hold) : x.besideHold hold := by
  unfold Entry.besideHold
  rw [h.state, h.result, h.addr, h.length, h.window]
  exact he

/-- A claim that holds no grant may stand beside a FREE slot. -/
theorem Entry.besideHold_none {e : Entry}
    (hgranted : e.state = .ready → e.result ≠ some true) : e.besideHold none :=
  ⟨fun _ => rfl, fun hready htrue => absurd htrue (hgranted hready), fun _ _ => rfl⟩

/-- A completed read touches no CLAIM entry: none is ISSUED (R6). -/
theorem mem_readBack_claim {s : State} (hs : slotsDistinct s) (hstate : claimStateLaw s) {a : Access}
    {x : Entry} (hx : x ∈ (readBack s a).table) (hkind : x.kind = .claim) : x ∈ s.table := by
  unfold readBack at hx
  dsimp only at hx
  split at hx
  next e he =>
    obtain ⟨hmem, -, hissued⟩ := issuedEntry_eq_some he
    unfold deliverRead at hx
    split at hx
    next => exact (mem_freeEntry hx).1
    next =>
      obtain ⟨hxs, -⟩ | rfl := mem_updateEntry hs hmem hx
      · exact hxs
      · exact absurd hissued (hstate e hmem hkind)
  next => exact hx

/-- A completed write touches no CLAIM entry (R6, R58). -/
theorem mem_writeBack_claim {s : State} (hs : slotsDistinct s) (hstate : claimStateLaw s) {a : Access}
    {x : Entry} (hx : x ∈ (writeBack s a).table) (hkind : x.kind = .claim) :
    ∃ e ∈ s.table, x.SameClaim e := by
  obtain ⟨hmem, -⟩ | ⟨y, -, hstale, -, rfl⟩ := mem_coherenceSearch hx
  · obtain hold | ⟨e, he, -, rfl⟩ | ⟨e, he, -, hissued, -, rfl⟩ :=
      mem_retireWrite (s := freeBusAfterAccess (stored s a) a) hs hmem
    · exact ⟨x, hold, {}⟩
    · exact ⟨e, he, {}⟩
    · exact absurd hissued (hstate e he hkind)
  · exact absurd ((madeStale_kind hstale).1.symm.trans hkind) EntryKind.noConfusion

/-- A CLAIM entry after an elementary change stands beside its port's slot as R84 says. -/
theorem Change.keepsClaimBesideHold {i : Instr} {s t : State} (h : Change i s t) (hs : claimLaw s)
    (hstate : claimStateLaw s) {x : Entry} (hx : x ∈ t.table) (hkind : x.kind = .claim) :
    x.besideHold (t.port x.port).hold := by
  obtain ⟨hslots, -, hclaims⟩ := (claimLaw_iff s).mp hs
  have hsame : ∀ e ∈ s.table, x.SameClaim e → (t.port x.port).hold = (s.port x.port).hold →
      x.besideHold (t.port x.port).hold := by
    intro e he hxe hhold
    rw [hhold, hxe.port]
    exact hxe.besideHold (hclaims e he (hxe.kind ▸ hkind))
  have hended : ∀ p, (x.port = p → isGrantedClaim p x = false) → x ∈ s.table →
      x.besideHold (((s.setPort p { s.port p with hold := none }).port x.port).hold) := by
    intro p hgranted hxs
    by_cases hp : x.port = p
    · rw [hp, State.setPort_port_same]
      refine Entry.besideHold_none fun hready htrue => ?_
      have hyes := (isGrantedClaim_iff p x).mpr ⟨hp, hkind, hready, htrue⟩
      rw [hgranted hp] at hyes
      cases hyes
    · rw [State.setPort_port_ne _ _ hp]
      exact hclaims x hxs hkind
  cases h with
  | adjust h => exact hsame x (h.table ▸ hx) (.refl x) (h.port _).hold
  | shrink kept hkept => exact hsame x (hkept.mem hx) (.refl x) rfl
  | create kept e h =>
    rcases List.mem_append.mp hx with hx | hx
    · exact hsame x (h.sublist.mem hx) (.refl x) rfl
    · obtain rfl := List.mem_singleton.mp hx
      have hfree : (s.port x.port).hold = none := by
        have hsingle := h.single hkind
        simp only [claimsAlready, Bool.or_eq_false_iff, Option.isSome_eq_false_iff,
          Option.isNone_iff_eq_none] at hsingle
        exact hsingle.1
      exact ⟨fun _ => hfree, fun hready => absurd (h.state.symm.trans hready) EntryState.noConfusion,
        fun _ _ => hfree⟩
  | leave e n h =>
    obtain ⟨hxs, -⟩ | rfl := mem_updateEntry hslots h.mem hx
    · exact hsame x hxs (.refl x) rfl
    · exact absurd (h.kind.symm.trans hkind) EntryKind.noConfusion
  | grant c hgrantable hmem =>
    obtain ⟨hc, hck, -⟩ := hmem hslots
    obtain ⟨hxs, hne⟩ | rfl := mem_updateEntry hslots hc (f := fun e => e.granted s) hx
    · have hp : x.port ≠ c.port := fun hp => hne (claim_unique hs hc hxs hp hck hkind ▸ rfl)
      exact hsame x hxs (.refl x) (by rw [grant_port_ne s c hp])
    · have hhold : ((Machine.grant s c).port c.port).hold = some (holdOf s c) := by
        rw [grant_port_same]
      exact ⟨fun hq => absurd hq EntryState.noConfusion,
        fun _ _ => ⟨holdOf s c, hhold, rfl, rfl, rfl⟩, fun _ hne => absurd rfl hne⟩
  | withdraw p =>
    obtain ⟨hxs, hgranted⟩ | ⟨e, he, hgranted, rfl⟩ := mem_withdraw hx
    · exact hended p (fun _ => hgranted) hxs
    · obtain ⟨rfl, -, hready, -⟩ := (isGrantedClaim_iff p e).mp hgranted
      have hfree : ((withdrawClaim (freeHold s e.port) e.port).port e.port).hold = none :=
        congrArg PortUnit.hold (State.setPort_port_same s e.port _)
      exact ⟨fun _ => hfree, fun _ htrue => (nomatch htrue), fun _ _ => hfree⟩
  | release p kept hkept hgranted =>
    exact hended p (fun _ => hgranted hs x hx) (hkept.mem hx)
  | cleanup p m hm =>
    obtain ⟨hxs, hp⟩ | ⟨e, he, -, hissued, rfl⟩ := mem_cleanedUp hx
    · exact hsame x hxs (.refl x)
        (by rw [cleanedUp_port_ne _ hp, State.setPort_port_ne _ _ hp])
    · exact absurd hissued (hstate e he hkind)
  | enqueue p addr n words w place =>
    refine hsame x hx (.refl x) ?_
    change ((s.setPort p _).port x.port).hold = _
    by_cases hp : x.port = p
    · rw [hp, State.setPort_port_same]
    · rw [State.setPort_port_ne _ _ hp]
  | access c hbus hc =>
    obtain ⟨hxs, -⟩ | ⟨e, he, hmay, -, rfl⟩ := mem_issueAccess hslots hc hx
    · refine hsame x hxs (.refl x) ?_
      rw [State.port, issueAccess_ports]
      split
      · rfl
      · rw [PerPort.get_set]; split
        next hp => rw [hp]
        next => rfl
    · exact absurd hkind hmay.2.1
  | read a =>
    exact hsame x (mem_readBack_claim hslots hstate hx hkind) (.refl x) (by rw [readBack_port])
  | write a =>
    obtain ⟨e, he, hxe⟩ := mem_writeBack_claim hslots hstate hx hkind
    refine hsame e he hxe ?_
    rw [State.port, writeBack_ports]
    split
    · rw [PerPort.get_set]; split
      next hp => rw [hp]
      next => rfl
    · rfl
  | clear => cases hx
  | power => cases hx
  | refresh | close | free | wake => exact hsame x hx (.refl x) rfl

theorem Change.keepsClaims {i : Instr} {s t : State} (h : Change i s t)
    (hs : claimLaw s ∧ claimStateLaw s) : claimLaw t ∧ claimStateLaw t := by
  obtain ⟨hclaim, hstate⟩ := hs
  obtain ⟨hslots, hcount, -⟩ := (claimLaw_iff s).mp hclaim
  refine ⟨(claimLaw_iff t).mpr ⟨h.keepsSlots hslots, fun p => ?_,
    fun x hx hkind => h.keepsClaimBesideHold hclaim hstate hx hkind⟩, fun x hx => ?_⟩
  · obtain hfrom | ⟨kept, e, hnew, rfl⟩ := h.outline
    · exact (hfrom.countP_le fun q k => q == p && k == .claim).trans (hcount p)
    · have hle := hnew.sublist.countP_le (p := fun e => e.port == p && e.kind == .claim)
      dsimp only
      rw [List.countP_append, List.countP_singleton]
      split
      next hclaims =>
        simp only [Bool.and_eq_true, beq_iff_eq] at hclaims
        obtain ⟨rfl, hkind⟩ := hclaims
        have hnone : (kept.countP fun x => x.port == e.port && x.kind == .claim) = 0 := by
          rw [List.countP_eq_zero]
          intro x hx hxc
          have hsingle := hnew.single hkind
          simp only [claimsAlready, Bool.or_eq_false_iff, List.any_eq_false] at hsingle
          exact hsingle.2 x (hnew.sublist.mem hx) hxc
        omega
      next => exact hle.trans (hcount p)
  · obtain ⟨e, he, hex⟩ | ⟨e, n, hleaves, rfl, -⟩ | ⟨kept, hcreates, -⟩ := h.mem hslots hx
    · exact hex.claimNotIssued (hstate e he)
    · exact hstate e hleaves.mem
    · exact fun _ hissued => absurd (hcreates.state.symm.trans hissued) EntryState.noConfusion

theorem claims_tick {s : State} (hs : claimLaw s ∧ claimStateLaw s) :
    claimLaw (tick s) ∧ claimStateLaw (tick s) := by
  obtain ⟨hclaim, hstate⟩ := hs
  obtain ⟨hslots, hcount, hclaims⟩ := (claimLaw_iff s).mp hclaim
  refine ⟨(claimLaw_iff _).mpr ⟨slotsDistinct_tick hslots, fun p =>
    ((tick_tableFrom s).countP_le fun q k => q == p && k == .claim).trans (hcount p),
    fun x hx hkind => ?_⟩, fun x hx => ?_⟩
  · obtain ⟨e, he, rfl⟩ := mem_tick hx
    obtain ⟨hqueued, hready, hlate⟩ := hclaims e he hkind
    rw [tick_port]
    refine ⟨fun hq => by rw [tickPort, hqueued hq]; rfl, fun hr htrue => ?_,
      fun hr hne => by rw [tickPort, hlate hr hne]; rfl⟩
    obtain ⟨k, hk, hbase, hunits, hwindow⟩ := hready hr htrue
    exact ⟨{ k with timer := k.timer - 1 }, by rw [tickPort, hk]; rfl, hbase, hunits, hwindow⟩
  · obtain ⟨e, he, rfl⟩ := mem_tick hx
    exact hstate e he

/-- Settles O54: a claim is granted only clear of every hold, a second CLAIM of a port is refused, and the
end of a hold withdraws or frees the claim that was granted it. -/
theorem stepKeepsHoldsAndClaims : Obligations.StepKeepsHoldsAndClaims := by
  unfold Obligations.StepKeepsHoldsAndClaims
  intro s t h
  exact ⟨fun hs => step_keeps (fun _ _ _ hchange => hchange.keepsHoldsDisjoint)
      (fun _ => holdsDisjoint_tick) (fun _ _ hs => hs) hs h,
    fun hclaim hstate => step_keeps (fun _ _ _ hchange => hchange.keepsClaims) (fun _ => claims_tick)
      (fun _ _ hs => hs) ⟨hclaim, hstate⟩ h⟩

/-! ### Exclusion -/

/-- A PUT in a queue was there before, or has just been taken where no hold or claim kept it back. -/
theorem PortChange.queue_mem {s t : State} {p : Port} {v : PortUnit} (h : PortChange s t p v)
    {w : PutEntry} (hw : w ∈ v.queue) :
    (∃ r ∈ (s.port p).queue, w.addr = r.addr ∧ w.length = r.length) ∨
      (putHeldBack s p w.span = false ∧ wordsFit s w.addr w.length) := by
  cases h with
  | adjusted h => exact .inl ⟨w, h.queue ▸ hw, rfl, rfl⟩
  | enqueued q hseq hroom hfree hfits =>
    rcases List.mem_append.mp hw with hw | hw
    · exact .inl ⟨w, hw, rfl, rfl⟩
    · rw [List.mem_singleton.mp hw]; exact .inr ⟨hfree, hfits⟩
  | issued q rest hq =>
    obtain rfl | hw := List.mem_cons.mp hw
    · exact .inl ⟨q, hq ▸ List.mem_cons_self .., rfl, rfl⟩
    · exact .inl ⟨w, hq ▸ List.mem_cons_of_mem _ hw, rfl, rfl⟩
  | retired => exact .inl ⟨w, List.mem_of_mem_tail hw, rfl, rfl⟩
  | cleared => cases hw
  | powered => cases hw
  | granted | withdrawn | released | cleaned => exact .inl ⟨w, hw, rfl, rfl⟩

/-- The range of an access is that of its entry, or of its port's queue head (R96). -/
theorem span_accessOf {s : State} {c : Candidate} (hc : accessCandidate s c.port = some c) :
    (∃ e ∈ s.table, e.port = c.port ∧ mayIssue s e ∧ (accessOf s c).span = e.accessSpan) ∨
      ∃ q ∈ (s.port c.port).queue, (accessOf s c).span = q.span := by
  obtain ⟨e, he, hport, hmay, hcand⟩ | ⟨q, rest, hq, -, hcq⟩ := accessCandidate_eq_some hc
  · obtain ⟨-, -, -, -, hbase, hwords⟩ := candidateOfEntry_eq_some hcand
    refine .inl ⟨e, he, hport, hmay, ?_⟩
    change wordSpan c.base c.words = _
    rw [hbase, hwords]
    rfl
  · refine .inr ⟨q, hq ▸ List.mem_cons_self .., ?_⟩
    change wordSpan c.base c.words = _
    rw [hcq]
    rfl

theorem overlaps_of_not_foreignHoldMeets {s : State} {p q : Port} {a : Span} {h : Hold}
    (hfree : ¬ foreignHoldMeets s q a) (hpq : p ≠ q) (hh : (s.port p).hold = some h) :
    a.overlaps h.span = false := by
  rw [Span.overlaps_comm, Span.overlaps_eq_false_iff]
  exact fun hmeets => hfree ⟨p, h, hpq, hh, hmeets⟩

theorem Change.keepsExclusion {i : Instr} {s t : State} (h : Change i s t) (hs : exclusionLaw s) :
    exclusionLaw t := by
  intro p q x hpq hx
  obtain hxs | ⟨c, rfl, hgrantable, rfl, hspan⟩ := h.hold hx
  · obtain ⟨hqueue, haccess⟩ := hs p q x hpq hxs
    refine ⟨fun w hw => ?_, fun a ha haq => ?_⟩
    · obtain ⟨r, hr, haddr, hlength⟩ | ⟨hfree, -⟩ := (h.port q).queue_mem hw
      · rw [PutEntry.span, haddr, hlength]; exact hqueue r hr
      · refine overlaps_of_not_foreignHoldMeets (fun hmeets => ?_) hpq hxs
        rw [(putHeldBack_iff s q w.span).mpr (.inl hmeets)] at hfree
        cases hfree
    · obtain hbus | ⟨c, hc, rfl, -⟩ := h.bus_access ha
      · exact haccess a hbus haq
      · obtain rfl : c.port = q := haq
        obtain ⟨e, -, hport, hmay, hspan⟩ | ⟨w, hw, hspan⟩ := span_accessOf hc
        · rw [hspan]
          exact overlaps_of_not_foreignHoldMeets (hport ▸ hmay.2.2.2.2.1) hpq hxs
        · rw [hspan]; exact hqueue w hw
  · obtain ⟨-, -, hputs, haccess⟩ := (grantable_iff s c).mp hgrantable
    rw [hspan]
    refine ⟨fun w hw => ?_, fun a ha haq => ?_⟩
    · rw [grant_port_ne s c hpq.symm] at hw
      exact (Span.overlaps_eq_false_iff _ _).mpr (hputs q hpq.symm w hw)
    · exact (Span.overlaps_eq_false_iff _ _).mpr (haccess a ha (haq ▸ hpq.symm))

theorem exclusionLaw_tick {s : State} (hs : exclusionLaw s) : exclusionLaw (tick s) := by
  intro p q x hpq hx
  obtain ⟨h, hh, rfl⟩ := tick_hold hx
  rw [tick_port]
  exact hs p q h hpq hh

/-- Settles O55: a hold is granted only where no other port's PUT or access stands, and beside a hold no
other port's PUT is taken and no access of it is issued. -/
theorem stepKeepsExclusion : Obligations.StepKeepsExclusion := by
  unfold Obligations.StepKeepsExclusion
  intro s t hs h
  exact step_keeps (fun _ _ _ hchange => hchange.keepsExclusion) (fun _ => exclusionLaw_tick)
    (fun _ _ hs => hs) hs h

end Sys2Proof.Machine
end

section
/-! PROOF. What every step keeps of the work's place in memory (R33, R75) and of its coherence (R62); and
that no step stops. -/

set_option Elab.async false

namespace Sys2Proof.Machine

/-! ### The present memory -/

theorem presence_setRank {s : State} {r : RankId} {c : RankControl}
    (h : c.presence = (s.rank r).presence) (x : RankId) :
    ((s.setRank r c).rank x).presence = (s.rank x).presence := by
  by_cases hx : x = r
  · subst hx; rw [State.setRank_rank_same, h]
  · rw [State.setRank_rank_ne _ _ hx]

theorem presence_rankForAccess (c : RankControl) (row : Nat) :
    (rankForAccess c row).presence = c.presence := by
  unfold rankForAccess; split <;> rfl

theorem presence_rankAfterAccess (c : RankControl) (policy : PagePolicy) :
    (rankAfterAccess c policy).presence = c.presence := by
  cases policy <;> rfl

theorem issueAccess_rank (s : State) (c : Candidate) (r : RankId) :
    (issueAccess s c).rank r =
      (s.setRank c.place.rank (rankForAccess (s.rank c.place.rank) c.place.row)).rank r := by
  unfold issueAccess markIssued
  cases c.work <;> rfl

/-- The memory present stays, but for a power-on reset, which leaves no work. -/
theorem Change.presence {i : Instr} {s t : State} (h : Change i s t) :
    (∀ r, (t.rank r).presence = (s.rank r).presence) ∨
      t.table = [] ∧ t.bus = none ∧ ∀ p, (t.port p).queue = [] := by
  have hcompletion : ∀ (u : State) (a : Access), u.ranks = s.ranks →
      RequestSide (freeBusAfterAccess u a) t → ∀ r, (t.rank r).presence = (s.rank r).presence := by
    intro u a hu hside r
    rw [hside.rank r, ← State.rank_congr hu r]
    exact presence_setRank (presence_rankAfterAccess _ _) r
  cases h with
  | adjust h => exact .inl fun r => (h.rank r).presence
  | refresh r k => exact .inl (presence_setRank (s := s) (r := r) rfl)
  | close r => exact .inl (presence_setRank (s := s) (r := r) rfl)
  | wake r => exact .inl (presence_setRank rfl)
  | free x d hbus hx hfreed => exact .inl (presence_setRank (s := s) hfreed.1)
  | access c =>
    refine .inl fun r => ?_
    rw [issueAccess_rank]
    exact presence_setRank (presence_rankForAccess _ _) r
  | read a => exact .inl (hcompletion s a rfl (readBack_requestSide s a))
  | write a => exact .inl (hcompletion (stored s a) a rfl (writeBack_requestSide s a))
  | power =>
    refine .inr ⟨rfl, rfl, fun p => ?_⟩
    change ((s.ports.map linkOutside).get p).queue = []
    rw [PerPort.get_map]
    rfl
  | shrink | create | leave | grant | withdraw | release | cleanup | enqueue | clear =>
    exact .inl fun _ => rfl

theorem wordsFit_congr {s t : State} (h : ∀ r, (t.rank r).presence = (s.rank r).presence)
    {addr : Addr} {n : Nat} (hfit : wordsFit s addr n) : wordsFit t addr n := by
  unfold wordsFit totalCapacity at *
  rwa [h 0, h 1]

theorem wordsFit.mono {s : State} {addr : Addr} {n m : Nat} (h : wordsFit s addr n) (hm : m ≤ n) :
    wordsFit s addr m := by
  obtain ⟨halign, hblock, hcap⟩ := h
  exact ⟨halign, by omega, hcap⟩

/-- What is left of words in one block lies in that block. -/
theorem wordsFit.drop {s : State} {addr : Addr} {n k : Nat} (h : wordsFit s addr n) (hk : k < n) :
    (addWords addr k).toNat = addr.toNat + 8 * k ∧ wordsFit s (addWords addr k) (n - k) := by
  obtain ⟨halign, hblock, hcap⟩ := h
  have haddr : (addWords addr k).toNat = addr.toNat + 8 * k := by
    have := addr.isLt
    rw [addWords, BitVec.toNat_add, BitVec.toNat_ofNat]
    omega
  exact ⟨haddr, by rw [wordsFit, haddr]; omega⟩

/-- The read range of an entry lies in the block of its address (R4). -/
theorem wordsFit.accessWords {s : State} {e : Entry} (h : wordsFit s e.addr e.length) :
    wordsFit s e.addr e.accessWords := by
  obtain ⟨halign, hblock, hcap⟩ := h
  unfold Entry.accessWords
  split
  · exact ⟨halign, by unfold wordsToBlockEnd; omega, hcap⟩
  · exact ⟨halign, hblock, hcap⟩

/-! ### Leftovers -/

theorem EntryChange.keepsLeftover {s : State} {e x : Entry} (h : EntryChange s e x)
    (he : e.leftover = true → e.kind = .fetch ∧ e.state = .ready) :
    x.leftover = true → x.kind = .fetch ∧ x.state = .ready := by
  cases h with
  | same | withdrawn | orphaned | met => exact he
  | granted hkind => exact fun hl => absurd (hkind.symm.trans (he hl).1) EntryKind.noConfusion
  | issued hmay => exact fun hl => absurd (hmay.1.symm.trans (he hl).2) EntryState.noConfusion
  | read a h | written a h =>
    exact fun hl => absurd (h.issued.symm.trans (he hl).2) EntryState.noConfusion
  | stale _ _ hleft | rewritten _ _ _ _ hleft =>
    exact fun hl => absurd (hleft.symm.trans hl) Bool.noConfusion

/-! ### The work's place -/

/-- The words of an entry lie within the present memory. -/
def Entry.fits (s : State) (e : Entry) : Prop :=
  e.kind ≠ .claim → wordsFit s e.addr e.length ∧ wordsFit s e.addr e.readData.length

theorem EntryChange.fits {s : State} (hs : fitLaw s) {e x : Entry} (he : e ∈ s.table)
    (h : EntryChange s e x) : x.fits s := by
  obtain ⟨-, hentries, -, hbus⟩ := hs
  have hfits : e.fits s := hentries e he
  cases h with
  | read a hserves =>
    intro hkind
    obtain ⟨hwords, hserved⟩ := hbus a hserves.bus
    have haddr := (hserved e he hserves.work hserves.issued).1
    refine ⟨(hfits hkind).1, ?_⟩
    dsimp only
    rw [readWordsOf, Memory.length_readWords, haddr]
    exact hwords
  | stale | rewritten => exact fun hkind => ⟨(hfits hkind).1, (hfits hkind).1.mono (Nat.zero_le _)⟩
  | same | granted | withdrawn | orphaned | issued | written | met => exact hfits

theorem Leaves.fits {s : State} (hs : fitLaw s) {e : Entry} {n : Nat} (h : Leaves s e n) :
    (e.restAfter s e n).fits s := by
  intro _
  obtain ⟨-, hread⟩ := hs.2.1 e h.mem (by rw [h.kind]; decide)
  have hrest := (hread.drop h.rest).2
  rw [← List.length_drop] at hrest
  exact ⟨hrest, hrest⟩

/-- An ISSUED entry of an access that was in progress was ISSUED before, in the same place. -/
theorem EntryChange.of_issued {s : State} {e x : Entry} (h : EntryChange s e x)
    (hbus : s.bus ≠ none) (hissued : x.state = .issued) :
    e.state = .issued ∧ x.slot = e.slot ∧ x.addr = e.addr ∧ x.kind = e.kind ∧
      x.accessWords = e.accessWords ∧ x.leftover = e.leftover := by
  cases h with
  | same | withdrawn | orphaned | met => exact ⟨hissued, rfl, rfl, rfl, rfl, rfl⟩
  | issued _ hnone => exact absurd hnone hbus
  | granted | read | written | stale | rewritten => exact absurd hissued EntryState.noConfusion

/-- The entry that an access in progress serves after an elementary change was ISSUED before, and the
access in progress; or both are of the access just issued. -/
theorem Change.served {i : Instr} {s t : State} (h : Change i s t) (hs : slotsDistinct s)
    (hleft : leftoverLaw s) {a : Access} (ha : t.bus = some (.access a)) {x : Entry} (hx : x ∈ t.table)
    (hwork : a.work = .entry x.slot) (hissued : x.state = .issued) :
    (s.bus = some (.access a) ∧ ∃ e ∈ s.table, a.work = .entry e.slot ∧ e.state = .issued ∧
        x.addr = e.addr ∧ x.kind = e.kind ∧ x.accessWords = e.accessWords ∧
        x.leftover = e.leftover) ∨
      ∃ c e, e ∈ s.table ∧ mayIssue s e ∧ candidateOfEntry e = some c ∧ a = accessOf s c ∧
        x = { e with state := .issued } := by
  obtain hbus | ⟨c, hc, rfl, rfl⟩ := h.bus_access ha
  · refine .inl ⟨hbus, ?_⟩
    obtain ⟨e, he, hex⟩ | ⟨e, n, hleaves, rfl, -⟩ | ⟨kept, hcreates, -⟩ := h.mem hs hx
    · obtain ⟨he_issued, hslot, hrest⟩ :=
        hex.of_issued (by rw [hbus]; exact Option.some_ne_none _) hissued
      exact ⟨e, he, hslot ▸ hwork, he_issued, hrest⟩
    · have hready : e.state = .ready := hleaves.ready.elim (fun hl => (hleft e hleaves.mem hl).2) id
      exact absurd (hready.symm.trans hissued) EntryState.noConfusion
    · exact absurd (hcreates.state.symm.trans hissued) EntryState.noConfusion
  · obtain ⟨-, hne⟩ | ⟨e, he, hmay, hcand, rfl⟩ := mem_issueAccess hs hc hx
    · exact absurd rfl (hne x.slot hwork)
    · exact .inr ⟨c, e, he, hmay, hcand, rfl, rfl⟩

/-- The range of an access just issued lies within the present memory. -/
theorem wordsFit_accessOf {s : State} (hs : fitLaw s) {c : Candidate}
    (hc : accessCandidate s c.port = some c) :
    wordsFit s (accessOf s c).base (accessOf s c).words := by
  obtain ⟨-, hentries, hqueues, -⟩ := hs
  change wordsFit s c.base c.words
  obtain ⟨e, he, -, hmay, hcand⟩ | ⟨q, rest, hq, -, hcq⟩ := accessCandidate_eq_some hc
  · obtain ⟨-, -, -, -, hbase, hwords⟩ := candidateOfEntry_eq_some hcand
    rw [hbase, hwords]
    exact (hentries e he hmay.2.1).1.accessWords
  · rw [hcq]
    exact hqueues c.port q (hq ▸ List.mem_cons_self ..)

theorem Change.keepsFit {i : Instr} {s t : State} (h : Change i s t)
    (hs : fitLaw s ∧ leftoverLaw s) : fitLaw t ∧ leftoverLaw t := by
  obtain ⟨hfit, hleft⟩ := hs
  have hslots := hfit.1
  refine ⟨⟨h.keepsSlots hslots, ?_⟩, fun x hx => ?_⟩
  · obtain hpresence | ⟨htable, hbus, hqueue⟩ := h.presence
    · refine ⟨fun x hx hkind => ?_, fun p w hw => ?_, fun a ha => ⟨?_, fun x hx hwork hissued => ?_⟩⟩
      · have hx_fits : x.fits s := by
          obtain ⟨e, he, hex⟩ | ⟨e, n, hleaves, rfl, -⟩ | ⟨kept, hcreates, -⟩ := h.mem hslots hx
          · exact hex.fits hfit he
          · exact hleaves.fits hfit
          · intro hk
            rw [hcreates.readData]
            exact ⟨hcreates.fits hk, (hcreates.fits hk).mono (Nat.zero_le _)⟩
        exact (hx_fits hkind).imp (wordsFit_congr hpresence) (wordsFit_congr hpresence)
      · refine wordsFit_congr hpresence ?_
        obtain ⟨r, hr, haddr, hlength⟩ | ⟨-, hfits⟩ := (h.port p).queue_mem hw
        · rw [haddr, hlength]; exact hfit.2.2.1 p r hr
        · exact hfits
      · refine wordsFit_congr hpresence ?_
        obtain hbus | ⟨c, hc, rfl, -⟩ := h.bus_access ha
        · exact (hfit.2.2.2 a hbus).1
        · exact wordsFit_accessOf hfit hc
      · obtain ⟨hbus, e, he, hwork, hissued, haddr, hkind, -⟩ | ⟨c, e, he, hmay, hcand, rfl, rfl⟩ :=
          h.served hslots hleft ha hx hwork hissued
        · rw [haddr, hkind]
          exact (hfit.2.2.2 a hbus).2 e he hwork hissued
        · exact ⟨(candidateOfEntry_eq_some hcand).2.2.2.2.1.symm, hmay.2.1⟩
    · refine ⟨fun x hx => ?_, fun p w hw => ?_, fun a ha => ?_⟩
      · rw [htable] at hx; cases hx
      · rw [hqueue] at hw; cases hw
      · rw [hbus] at ha; cases ha
  · obtain ⟨e, he, hex⟩ | ⟨e, n, hleaves, rfl, -⟩ | ⟨kept, hcreates, -⟩ := h.mem hslots hx
    · exact hex.keepsLeftover (hleft e he)
    · exact fun _ => ⟨hleaves.kind, hleaves.ready.elim (fun hl => (hleft e hleaves.mem hl).2) id⟩
    · exact fun hl => absurd (hcreates.leftover.symm.trans hl) Bool.noConfusion

theorem presence_tick (s : State) (r : RankId) : ((tick s).rank r).presence = (s.rank r).presence := by
  fin_cases r <;> rfl

theorem fit_tick {s : State} (hs : fitLaw s ∧ leftoverLaw s) :
    fitLaw (tick s) ∧ leftoverLaw (tick s) := by
  obtain ⟨⟨hslots, hentries, hqueues, hbus⟩, hleft⟩ := hs
  have hcongr := fun {addr : Addr} {n : Nat} =>
    wordsFit_congr (s := s) (t := tick s) (addr := addr) (n := n) (presence_tick s)
  refine ⟨⟨slotsDistinct_tick hslots, fun x hx hkind => ?_, fun p w hw => ?_, fun a ha =>
    ⟨hcongr (hbus a ha).1, fun x hx => ?_⟩⟩, fun x hx => ?_⟩
  · obtain ⟨e, he, rfl⟩ := mem_tick hx
    exact (hentries e he hkind).imp hcongr hcongr
  · rw [tick_port] at hw
    exact hcongr (hqueues p w hw)
  · obtain ⟨e, he, rfl⟩ := mem_tick hx
    exact (hbus a ha).2 e he
  · obtain ⟨e, he, rfl⟩ := mem_tick hx
    exact hleft e he

/-! ### No step stops -/

/-- Words that fit are within the present memory (R73, R75). -/
theorem withinMemory_of_wordsFit {s : State} {a : Access} (h : wordsFit s a.base a.words) :
    withinMemory s a = true := by
  obtain ⟨halign, hblock, hcap⟩ := h
  refine decide_eq_true ?_
  change a.base.toNat + 8 * a.words ≤ totalCapacity s
  omega

theorem execAccessReadComplete_next {s : State} (hs : fitLaw s) :
    ∃ t, execAccessReadComplete s = .next t := by
  unfold execAccessReadComplete
  split
  next a ha =>
    rw [withinMemory_of_wordsFit (hs.2.2.2 a ha).1]
    split <;> exact ⟨_, rfl⟩
  next => exact ⟨_, rfl⟩

theorem execAccessWriteComplete_next {s : State} (hs : fitLaw s) :
    ∃ t, execAccessWriteComplete s = .next t := by
  unfold execAccessWriteComplete
  split
  next a ha =>
    rw [withinMemory_of_wordsFit (hs.2.2.2 a ha).1]
    split <;> exact ⟨_, rfl⟩
  next => exact ⟨_, rfl⟩

/-- Every command has a next state: an access in progress is within the present memory. -/
theorem exec_next {s : State} (hs : fitLaw s) (i : Instr) : ∃ t, exec i s = .next t := by
  cases i with
  | accessReadComplete => exact execAccessReadComplete_next hs
  | accessWriteComplete => exact execAccessWriteComplete_next hs
  | put p tag addr len data =>
    change ∃ t, execPut p tag addr len data s = .next t
    unfold execPut
    exact ⟨_, rfl⟩
  | discardTimerExpiry n =>
    simp only [exec, execDiscardTimerExpiry]
    split
    · split <;> exact ⟨_, rfl⟩
    · exact ⟨_, rfl⟩
  | refreshComplete | initializationRefreshComplete | closeComplete | intervalTimerExpiry
  | pauseTimerExpiry | rowOpenTimerExpiry =>
    simp only [exec, execRefreshComplete, execInitializationRefreshComplete, execCloseComplete,
      execIntervalTimerExpiry, execPauseTimerExpiry, execRowOpenTimerExpiry]
    split <;> exact ⟨_, rfl⟩
  | _ => exact ⟨_, rfl⟩

/-- Every step has a next state. -/
theorem step_next {s : State} (hs : fitLaw s) : ∃ t, step s = .next t := by
  unfold step
  split
  next => exact ⟨_, rfl⟩
  next c rest _ => exact exec_next (s := { s with pending := rest }) hs c

/-- Settles O60: the one fault is a completion beyond the present memory, and all work stays within it. -/
theorem stepNeverStops : Obligations.StepNeverStops := by
  unfold Obligations.StepNeverStops
  intro s hfit hleft
  obtain ⟨t, ht⟩ := step_next hfit
  exact ⟨t, ht, step_keeps (fun _ _ _ hchange => hchange.keepsFit) (fun _ => fit_tick)
    (fun _ _ hs => hs) ⟨hfit, hleft⟩ ht⟩

end Sys2Proof.Machine
end

section
/-! PROOF. What every step keeps of the coherence of delivered words (R62), and what changes the memory. -/

set_option Elab.async false

namespace Sys2Proof.Machine

/-! ### The memory -/

/-- Only the completion of a write and a power-on reset change the memory. -/
theorem Change.memory {i : Instr} {s t : State} (h : Change i s t) :
    (t.memory = s.memory ∧ t.powerOns = s.powerOns) ∨
      (i = .accessWriteComplete ∧
        ∃ a, s.bus = some (.access a) ∧ a.write = true ∧ t = writeBack s a) ∨
        (i = .powerOnResetAssert ∨ ∃ x a b, i = .powerOnResetRelease x a b) ∧ t.table = [] ∧
          t.memory = [] := by
  cases h with
  | adjust h => exact .inl ⟨h.memory, h.powerOns⟩
  | access c => exact .inl (by unfold issueAccess markIssued; cases c.work <;> exact ⟨rfl, rfl⟩)
  | read a => exact .inl ⟨(readBack_requestSide s a).memory, (readBack_requestSide s a).powerOns⟩
  | write a hbus hwrite hi => exact .inr (.inl ⟨hi, a, hbus, hwrite, rfl⟩)
  | power sel codeA codeB asserted n flags hi => exact .inr (.inr ⟨hi, rfl, rfl⟩)
  | shrink | create | leave | grant | withdraw | release | cleanup | enqueue | refresh | close | free
  | wake | clear => exact .inl ⟨rfl, rfl⟩

/-- Without the first words, what was read is what is read further up. -/
theorem Memory.readWords_drop (m : Memory) (p a n k : Nat) :
    (m.readWords p a n).drop k = m.readWords p (a + 8 * k) (n - k) := by
  refine List.ext_getElem? fun j => ?_
  rw [List.getElem?_drop, getElem?_readWords, getElem?_readWords]
  by_cases hj : k + j < n
  · rw [if_pos hj, if_pos (by omega)]
    congr 2
    omega
  · rw [if_neg hj, if_neg (by omega)]

/-- Words whose bytes read alike are read alike. -/
theorem Memory.readWords_congr {m m' : Memory} {p a n : Nat}
    (h : ∀ k < 8 * n, m'.read p (a + k) = m.read p (a + k)) :
    m'.readWords p a n = m.readWords p a n := by
  refine List.map_congr_left fun j hj => ?_
  have hbytes : (Oct.ofFn fun i : Fin 8 => m'.read p (a + 8 * j + i.val)) =
      Oct.ofFn fun i : Fin 8 => m.read p (a + 8 * j + i.val) := by
    congr 1
    funext i
    have hjn := List.mem_range.mp hj
    rw [Nat.add_assoc]
    exact h (8 * j + i.val) (by omega)
  unfold readWord
  rw [hbytes]

/-- A byte that a write changes lies in a word of it with a mask set (R58, R140). -/
theorem Memory.exists_written_of_read_ne {m : Memory} {p base x : Nat} {words : List HeldWord}
    (h : (m.storeWords base words).read p x ≠ m.read p x) :
    ∃ (j : Nat) (w : HeldWord) (i : Fin 8), words[j]? = some w ∧ (w.get i).mask = true ∧
      base + 8 * j ≤ x ∧ x < base + 8 * j + 8 := by
  by_cases hx : x < base
  · exact absurd (read_storeWords_below m p words hx) h
  · obtain ⟨k, rfl⟩ := Nat.exists_eq_add_of_le (Nat.le_of_not_lt hx)
    rw [read_storeWords] at h
    cases hw : words[k / 8]? with
    | none => rw [hw] at h; exact absurd rfl h
    | some w =>
      rw [hw] at h
      refine ⟨k / 8, w, Fin.ofNat 8 k, hw, ?_, by omega, by omega⟩
      by_contra hmask
      exact h (if_neg hmask)

/-- The words that a READY FETCH holds outlast a write that does not make it stale (R59). -/
theorem readWords_of_not_stale {m : Memory} {p base : Nat} {words : List HeldWord} {e : Entry}
    {n : Nat} (hstale : madeStale (writtenWords base words) e = false) (hkind : e.kind = .fetch)
    (hready : e.state = .ready) (hn : n ≤ e.heldWords) :
    (m.storeWords base words).readWords p e.addr.toNat n = m.readWords p e.addr.toNat n := by
  refine Memory.readWords_congr fun k hk => ?_
  by_contra hne
  obtain ⟨j, w, i, hw, hmask, hlo, hhi⟩ := Memory.exists_written_of_read_ne hne
  have hmem : (wordSpan e.addr e.heldWords).mem (e.addr.toNat + k) := by
    refine ⟨Nat.le_add_right _ _, ?_⟩
    change e.addr.toNat + k < e.addr.toNat + 8 * e.heldWords
    omega
  rw [(madeStale_iff base words e).mpr
    ⟨hkind, hready, e.addr.toNat + k, hmem, j, w, i, hw, hmask, hlo, hhi⟩] at hstale
  cases hstale

/-! ### Coherence -/

/-- The words that a READY FETCH holds are those of the memory (R62). -/
def Entry.coherent (e : Entry) (m : Memory) (powerOns : Nat) : Prop :=
  e.kind = .fetch → e.state = .ready →
    e.readData.length ≤ e.heldWords ∧
      e.readData = m.readWords powerOns e.addr.toNat e.readData.length

/-- The access in progress covers the read range of the entry it serves, and writes only for a PUT_SYNC
(R96). -/
def Access.suits (a : Access) (e : Entry) : Prop :=
  a.words = e.accessWords ∧ (a.write = true → e.kind = .putSync) ∧ e.leftover = false

theorem EntryChange.coherent {s : State} (hs : coherenceLaw s) {e x : Entry} (he : e ∈ s.table)
    (h : EntryChange s e x) : x.coherent s.memory s.powerOns := by
  obtain ⟨hfit, -, hwords, hbus⟩ := hs
  have hcoherent : e.coherent s.memory s.powerOns := hwords e he
  cases h with
  | same => exact hcoherent
  | granted hkind => exact fun hk => absurd (hkind.symm.trans hk) EntryKind.noConfusion
  | withdrawn p h =>
    exact fun hk => absurd (((isGrantedClaim_iff p e).mp h).2.1.symm.trans hk) EntryKind.noConfusion
  | orphaned h => exact fun _ hr => absurd (h.symm.trans hr) EntryState.noConfusion
  | met h => exact fun _ hr => absurd (h.symm.trans hr) EntryState.noConfusion
  | issued | stale | rewritten => exact fun _ hr => absurd hr EntryState.noConfusion
  | read a h =>
    intro _ _
    obtain ⟨hcovers, -, hleft⟩ := hbus a h.bus e he h.work h.issued
    obtain ⟨haddr, -⟩ := (hfit.2.2.2 a h.bus).2 e he h.work h.issued
    have hlength : (readWordsOf s a).length = a.words := Memory.length_readWords _ _ _ _
    refine ⟨?_, ?_⟩
    · dsimp only
      rw [hlength, hcovers, Entry.heldWords_eq]
      exact le_of_eq (if_neg (by rw [hleft]; decide)).symm
    · dsimp only
      rw [hlength, haddr]
      rfl
  | written a h hwrite =>
    intro hk
    exact absurd (((hbus a h.bus e he h.work h.issued).2.1 hwrite).symm.trans hk) EntryKind.noConfusion

/-- A leftover holds the rest of the words, which the memory holds at the address moved up (R11). -/
theorem Leaves.coherent {s : State} (hs : coherenceLaw s) {e : Entry} {n : Nat} (h : Leaves s e n) :
    (e.restAfter s e n).coherent s.memory s.powerOns := by
  obtain ⟨hfit, hleft, hwords, -⟩ := hs
  have hready : e.state = .ready := h.ready.elim (fun hl => (hleft e h.mem hl).2) id
  obtain ⟨-, hdata⟩ := hwords e h.mem h.kind hready
  obtain ⟨-, hread⟩ := hfit.2.1 e h.mem (by rw [h.kind]; decide)
  intro _ _
  refine ⟨le_of_eq (if_pos rfl).symm, ?_⟩
  change e.readData.drop n =
    s.memory.readWords s.powerOns (addWords e.addr n).toNat (e.readData.drop n).length
  rw [(hread.drop h.rest).1, List.length_drop, ← Memory.readWords_drop, ← hdata]

/-- What a READY FETCH holds after the completion of a write is in the memory then (R59). -/
theorem coherent_writeBack {s : State} (hs : coherenceLaw s) {a : Access}
    (hbus : s.bus = some (.access a)) (hwrite : a.write = true) {x : Entry}
    (hx : x ∈ (writeBack s a).table) :
    x.coherent (writeBack s a).memory (writeBack s a).powerOns := by
  intro hkind hready
  obtain ⟨hmem, hstale⟩ | ⟨y, -, -, -, rfl⟩ := mem_coherenceSearch hx
  · obtain hold | ⟨e, -, hqueued, rfl⟩ | ⟨e, he, hwork, hissued, -, rfl⟩ :=
      mem_retireWrite (s := freeBusAfterAccess (stored s a) a) hs.1.1 hmem
    · obtain ⟨hheld, hdata⟩ := hs.2.2.1 x hold hkind hready
      have hmemory : (writeBack s a).memory = s.memory.storeWords a.base.toNat (writeData s a) :=
        (writeBack_requestSide s a).memory
      have hpower : (writeBack s a).powerOns = s.powerOns := (writeBack_requestSide s a).powerOns
      refine ⟨hheld, ?_⟩
      rw [hmemory, hpower, readWords_of_not_stale hstale hkind hready hheld]
      exact hdata
    · exact absurd (hqueued.symm.trans hready) EntryState.noConfusion
    · exact absurd (((hs.2.2.2 a hbus e he hwork hissued).2.1 hwrite).symm.trans hkind)
        EntryKind.noConfusion
  · exact absurd hready EntryState.noConfusion

theorem Change.keepsCoherence {i : Instr} {s t : State} (h : Change i s t) (hs : coherenceLaw s) :
    coherenceLaw t := by
  obtain ⟨hfit, hleft, -, hbus⟩ := id hs
  obtain ⟨hfit', hleft'⟩ := h.keepsFit ⟨hfit, hleft⟩
  refine ⟨hfit', hleft', fun x hx => ?_, fun a ha x hx hwork hissued => ?_⟩
  · obtain ⟨hmemory, hpower⟩ | ⟨-, a, hbus, hwrite, rfl⟩ | ⟨-, htable, -⟩ := h.memory
    · have hcoherent : x.coherent s.memory s.powerOns := by
        obtain ⟨e, he, hex⟩ | ⟨e, n, hleaves, rfl, -⟩ | ⟨kept, hcreates, -⟩ := h.mem hfit.1 hx
        · exact hex.coherent hs he
        · exact hleaves.coherent hs
        · exact fun _ hr => absurd (hcreates.state.symm.trans hr) EntryState.noConfusion
      rw [hmemory, hpower]
      exact hcoherent
    · exact coherent_writeBack hs hbus hwrite hx
    · rw [htable] at hx; cases hx
  · obtain ⟨hbefore, e, he, hwork, hissued, -, hkind, hcovers, hleft⟩ |
        ⟨c, e, he, hmay, hcand, rfl, rfl⟩ := h.served hfit.1 hleft ha hx hwork hissued
    · rw [hcovers, hkind, hleft]
      exact hbus a hbefore e he hwork hissued
    · obtain ⟨-, -, hwrite, -, -, hwords⟩ := candidateOfEntry_eq_some hcand
      refine ⟨hwords, fun hw => ?_, ?_⟩
      · change c.write = true at hw
        rw [hwrite] at hw
        exact beq_iff_eq.mp hw
      · exact Bool.eq_false_iff.mpr fun hl =>
          absurd (hmay.1.symm.trans (hleft e he hl).2) EntryState.noConfusion

theorem coherenceLaw_tick {s : State} (hs : coherenceLaw s) : coherenceLaw (tick s) := by
  obtain ⟨hfit, hleft, hwords, hbus⟩ := hs
  obtain ⟨hfit', hleft'⟩ := fit_tick ⟨hfit, hleft⟩
  refine ⟨hfit', hleft', fun x hx => ?_, fun a ha x hx => ?_⟩
  · obtain ⟨e, he, rfl⟩ := mem_tick hx
    exact hwords e he
  · obtain ⟨e, he, rfl⟩ := mem_tick hx
    exact hbus a ha e he

/-- Settles O58: words are read from the memory, a leftover's address moves up with its words, and a write
returns or frees every READY FETCH that it overtakes. -/
theorem stepKeepsCoherence : Obligations.StepKeepsCoherence := by
  unfold Obligations.StepKeepsCoherence
  intro s t hs h
  exact step_keeps (fun _ _ _ hchange => hchange.keepsCoherence) (fun _ => coherenceLaw_tick)
    (fun _ _ hs => hs) hs h

end Sys2Proof.Machine
end

section
/-! PROOF. What every step keeps of the ranks: the refresh balances (R126) and the open rows (R116, R131). -/

set_option Elab.async false

namespace Sys2Proof.Machine

/-! ### Rank controls -/

/-- What an elementary change from `s` to `t` can make of the control of rank `r`, and of the bus as that
rank sees it. -/
inductive RankChange (s t : State) (r : RankId) : RankControl → Prop where
  | adjusted {d : RankControl} (h : (s.rank r).Adjusted d) (hbus : t.bus = s.bus) :
      RankChange s t r d
  /-- An operation on the other rank is issued or completes. -/
  | other (hbefore : ∀ x, s.bus = some x → x.rank ≠ r) (hafter : ∀ x, t.bus = some x → x.rank ≠ r) :
      RankChange s t r (s.rank r)
  /-- A REFRESH of it is issued (R98). -/
  | refreshed (k : RefreshClass) (hbefore : s.bus = none) (hafter : t.bus = some (.refresh r k))
      (h : forcedCandidate s r = some k ∨ (k = .pullIn ∧ pullInCandidate s r = true)) :
      RankChange s t r (rankForRefresh (s.rank r))
  /-- A CLOSE of it is issued (R98). -/
  | closing (hbefore : s.bus = none) (hafter : t.bus = some (.close r))
      (h : closeCandidate s r = true) : RankChange s t r (rankForRefresh (s.rank r))
  /-- An ACCESS to it is issued (R97). -/
  | accessed (a : Access) (hbefore : s.bus = none) (hafter : t.bus = some (.access a))
      (hrank : a.rank = r) (hready : (s.rank r).state = .ready) :
      RankChange s t r (rankForAccess (s.rank r) a.row)
  /-- An ACCESS to it completes (R128). -/
  | completed (a : Access) (hbefore : s.bus = some (.access a)) (hafter : t.bus = none)
      (hrank : a.rank = r) : RankChange s t r (rankAfterAccess (s.rank r) a.policy)
  /-- A REFRESH or CLOSE of it completes (R119, R125, R133). -/
  | freed {d : RankControl} (x : BusOp) (hbefore : s.bus = some x) (hafter : t.bus = none)
      (hx : ∀ a, x ≠ .access a) (hrank : x.rank = r) (h : RankFreed x (s.rank r) d) :
      RankChange s t r d
  /-- It leaves PAUSE (R118). -/
  | woken (h : (s.rank r).state = .pause) (hbus : t.bus = s.bus) :
      RankChange s t r (wakeRank (s.rank r))
  /-- Power-on reset (R186). -/
  | powered (code : BitVec 2) (hafter : t.bus = none) : RankChange s t r (rankAtRelease code)

theorem RankChange.same {s t : State} (r : RankId) (hbus : t.bus = s.bus) :
    RankChange s t r (s.rank r) :=
  .adjusted (.refl _) hbus

/-- A change of rank `x`'s control alone, with an operation on it issued or completed. -/
theorem RankChange.ofSetRank {s t : State} {x : RankId} {c : RankControl} (h : RankChange s t x c)
    (hbefore : ∀ y, s.bus = some y → y.rank = x) (hafter : ∀ y, t.bus = some y → y.rank = x)
    (r : RankId) : RankChange s t r ((s.setRank x c).rank r) := by
  by_cases hr : r = x
  · subst hr; rwa [State.setRank_rank_same]
  · rw [State.setRank_rank_ne _ _ hr]
    exact .other (fun y hy hyr => hr (hyr.symm.trans (hbefore y hy)))
      fun y hy hyr => hr (hyr.symm.trans (hafter y hy))

/-- The rank of the work that a port offers is READY (R22, R102). -/
theorem rank_ready_of_candidate {s : State} {c : Candidate} (hc : accessCandidate s c.port = some c) :
    (s.rank c.place.rank).state = .ready := by
  obtain ⟨e, -, -, hmay, hcand⟩ | ⟨q, rest, -, hready, hcq⟩ := accessCandidate_eq_some hc
  · obtain ⟨place, hplace, hready⟩ := hmay.2.2.1
    obtain ⟨-, -, -, hcplace, -⟩ := candidateOfEntry_eq_some hcand
    obtain rfl := Option.some.inj (hplace.symm.trans hcplace)
    exact hready
  · obtain ⟨place, hplace, hready⟩ := (placeReady_iff s _).mp hready
    obtain rfl := Option.some.inj hplace
    rw [hcq]
    exact hready

/-- An elementary change makes of a rank's control one of the changes of `RankChange`. -/
theorem Change.rank {i : Instr} {s t : State} (h : Change i s t) (r : RankId) :
    RankChange s t r (t.rank r) := by
  have hcompletion : ∀ (u : State) (a : Access), u.ranks = s.ranks → s.bus = some (.access a) →
      RequestSide (freeBusAfterAccess u a) t → RankChange s t r (t.rank r) := by
    intro u a hu hbefore hside
    have hafter : t.bus = none := hside.bus
    have hranks : (freeBusAfterAccess u a).rank r =
        (s.setRank a.rank (rankAfterAccess (s.rank a.rank) a.policy)).rank r := by
      unfold freeBusAfterAccess State.setRank State.rank
      rw [hu]
    rw [hside.rank r, hranks]
    refine (RankChange.completed a hbefore hafter rfl).ofSetRank ?_ ?_ r
    · intro y hy; cases hbefore.symm.trans hy; rfl
    · intro y hy; rw [hafter] at hy; cases hy
  have hnone : s.bus = none → ∀ (x : RankId) (y : BusOp), s.bus = some y → y.rank = x := by
    intro hbus x y hy
    rw [hbus] at hy
    cases hy
  cases h with
  | adjust h => exact .adjusted (h.rank r) h.bus
  | refresh x k hbus h =>
    exact (RankChange.refreshed k hbus rfl h).ofSetRank (hnone hbus x)
      (fun y hy => by cases hy; rfl) r
  | close x hbus h =>
    exact (RankChange.closing hbus rfl h).ofSetRank (hnone hbus x) (fun y hy => by cases hy; rfl) r
  | access c hbus hc =>
    rw [issueAccess_rank]
    exact (RankChange.accessed (accessOf s c) hbus rfl rfl (rank_ready_of_candidate hc)).ofSetRank
      (hnone hbus _) (fun y hy => by cases hy; rfl) r
  | free x d hbus hx h =>
    exact (RankChange.freed x hbus rfl hx rfl h).ofSetRank
      (fun y hy => by cases hbus.symm.trans hy; rfl) (fun y hy => by cases hy) r
  | wake x h =>
    by_cases hr : r = x
    · subst hr; rw [State.setRank_rank_same]; exact .woken h rfl
    · rw [State.setRank_rank_ne _ _ hr]; exact .same r rfl
  | read a hbus => exact hcompletion s a rfl hbus (readBack_requestSide s a)
  | write a hbus => exact hcompletion (stored s a) a rfl hbus (writeBack_requestSide s a)
  | power sel codeA codeB =>
    fin_cases r
    · exact .powered codeA rfl
    · exact .powered codeB rfl
  | shrink | create | leave | grant | withdraw | release | cleanup | enqueue | clear =>
    exact .same r rfl

/-! ### Open rows -/

theorem rowLawAt_iff (s : State) (r : RankId) :
    rowLawAt s r ↔
      ((s.rank r).activity = .busy ↔ ∃ x, s.bus = some x ∧ x.rank = r) ∧
        ((s.rank r).activity = .busy → (s.rank r).state = .ready ∨ (s.rank r).state = .wake) ∧
        ((s.rank r).activity = .rowOpen → (s.rank r).openRow ≠ none) ∧
        ((s.rank r).activity = .idle → (s.rank r).openRow = none) ∧
        ((s.rank r).openRow ≠ none → (s.rank r).state = .ready) ∧
        ((s.rank r).closeDue = true → (s.rank r).openRow ≠ none) ∧
        ((s.rank r).rowOpenTimer ≠ none → (s.rank r).openRow ≠ none) ∧
        (∀ k, s.bus = some (.refresh r k) → (s.rank r).openRow = none) ∧
        (s.bus = some (.close r) → (s.rank r).openRow = none) ∧
        ∀ a, s.bus = some (.access a) → a.rank = r → (s.rank r).openRow = some a.row :=
  Iff.rfl

/-- A rank with no row, not BUSY, while no operation is on it. -/
theorem rowLawAt_of_idle {t : State} {r : RankId} (hidle : (t.rank r).activity = .idle)
    (hrow : (t.rank r).openRow = none) (hdue : (t.rank r).closeDue = false)
    (htimer : (t.rank r).rowOpenTimer = none) (hbus : ∀ x, t.bus = some x → x.rank ≠ r) :
    rowLawAt t r := by
  rw [rowLawAt_iff]
  rw [hidle, hrow, hdue, htimer]
  refine ⟨iff_of_false Activity.noConfusion fun ⟨x, hx, hxr⟩ => hbus x hx hxr,
    Activity.noConfusion, Activity.noConfusion, fun _ => rfl, absurd rfl, Bool.noConfusion, absurd rfl,
    fun _ _ => rfl, fun _ => rfl, fun a ha har => absurd har (hbus _ ha)⟩

/-- A rank at the issue of a REFRESH or CLOSE (R128). -/
theorem rowLawAt_of_refresh {s t : State} {r : RankId} {x : BusOp}
    (ht : t.rank r = rankForRefresh (s.rank r)) (hbus : t.bus = some x) (hrank : x.rank = r)
    (hx : ∀ a, x ≠ .access a) (hstate : (s.rank r).state = .ready ∨ (s.rank r).state = .wake) :
    rowLawAt t r := by
  rw [rowLawAt_iff, ht]
  refine ⟨iff_of_true rfl ⟨x, hbus, hrank⟩, fun _ => hstate, Activity.noConfusion, fun _ => rfl,
    absurd rfl, Bool.noConfusion, absurd rfl, fun _ _ => rfl, fun _ => rfl, fun a ha => ?_⟩
  exact absurd (Option.some.inj (hbus.symm.trans ha)) (hx a)

theorem forcedCandidate_state {s : State} {r : RankId} {k : RefreshClass}
    (h : forcedCandidate s r = some k) :
    ((s.rank r).state = .ready ∧ (s.settings.threshold.toNat : Int) ≤ (s.rank r).balance ∧
        k = .forced) ∨
      ((s.rank r).state = .wake ∧ k = .wake) := by
  unfold forcedCandidate at h
  dsimp only at h
  split_ifs at h with hforced hwake
  · cases h; exact .inl ⟨hforced.1, hforced.2.1, rfl⟩
  · cases h; exact .inr ⟨hwake.1, rfl⟩

theorem Change.keepsRowLawAt {i : Instr} {s t : State} (h : Change i s t) {r : RankId}
    (hs : rowLawAt s r) : rowLawAt t r := by
  obtain ⟨hbusy, hstate, hopen, hidle, hready, hdue, htimer, hrefresh, hclose, haccess⟩ := id hs
  have hrank := h.rank r
  generalize hd : t.rank r = d at hrank
  cases hrank with
  | adjusted h hbus =>
    rw [rowLawAt_iff, hd, hbus, h.activity, h.state, h.openRow]
    refine ⟨hbusy, hstate, hopen, hidle, hready, fun hcd => ?_, fun hne => htimer (h.rowOpenTimer hne),
      hrefresh, hclose, haccess⟩
    exact (h.closeDue hcd).elim hdue htimer
  | other hbefore hafter =>
    rw [rowLawAt_iff, hd]
    refine ⟨iff_of_false (fun hb => ?_) fun ⟨x, hx, hxr⟩ => hafter x hx hxr, hstate, hopen, hidle,
      hready, hdue, htimer, fun k hk => absurd rfl (hafter _ hk), fun hk => absurd rfl (hafter _ hk),
      fun a ha har => absurd har (hafter _ ha)⟩
    obtain ⟨x, hx, hxr⟩ := hbusy.mp hb
    exact hbefore x hx hxr
  | refreshed k hbefore hafter hcandidate =>
    refine rowLawAt_of_refresh hd hafter rfl (fun a h => nomatch h) ?_
    obtain hforced | ⟨-, hpull⟩ := hcandidate
    · exact (forcedCandidate_state hforced).imp And.left And.left
    · exact .inl ((pullInCandidate_iff s r).mp hpull).1
  | closing hbefore hafter hcandidate =>
    exact rowLawAt_of_refresh hd hafter rfl (fun a h => nomatch h)
      (.inl ((closeCandidate_iff s r).mp hcandidate).1)
  | accessed a hbefore hafter hrank hrow =>
    rw [rowLawAt_iff, hd]
    unfold rankForAccess
    have hother : ∀ b, t.bus = some (.access b) → b.row = a.row := by
      intro b hb
      cases hafter.symm.trans hb
      rfl
    split
    next hhit =>
      have hne : (s.rank r).openRow ≠ none := by rw [hhit.2]; exact Option.some_ne_none _
      refine ⟨iff_of_true rfl ⟨_, hafter, hrank⟩, fun _ => .inl hrow, fun _ => hne,
        Activity.noConfusion, fun _ => hrow, fun _ => hne, fun _ => hne,
        fun k hk => ?_, fun hk => ?_, fun b hb _ => (hother b hb).symm ▸ hhit.2⟩
      · exact absurd (hafter.symm.trans hk) (by simp)
      · exact absurd (hafter.symm.trans hk) (by simp)
    next =>
      have hne : some a.row ≠ none := Option.some_ne_none _
      refine ⟨iff_of_true rfl ⟨_, hafter, hrank⟩, fun _ => .inl hrow, fun _ => hne,
        Activity.noConfusion, fun _ => hrow, fun _ => hne, fun _ => hne,
        fun k hk => ?_, fun hk => ?_, fun b hb _ => (hother b hb).symm ▸ rfl⟩
      · exact absurd (hafter.symm.trans hk) (by simp)
      · exact absurd (hafter.symm.trans hk) (by simp)
  | completed a hbefore hafter hrank =>
    have hrow := haccess a hbefore hrank
    have hne : (s.rank r).openRow ≠ none := by rw [hrow]; exact Option.some_ne_none _
    have hnone : ∀ x, t.bus ≠ some x := fun x hx => by rw [hafter] at hx; cases hx
    cases hpolicy : a.policy with
    | leaveOpen =>
      rw [hpolicy] at hd
      rw [rowLawAt_iff, hd]
      exact ⟨iff_of_false Activity.noConfusion fun ⟨x, hx, _⟩ => hnone x hx, Activity.noConfusion,
        fun _ => hne, Activity.noConfusion, hready, hdue, htimer, fun k hk => absurd hk (hnone _),
        fun hk => absurd hk (hnone _), fun b hb => absurd hb (hnone _)⟩
    | close =>
      rw [hpolicy] at hd
      exact rowLawAt_of_idle (by rw [hd]; rfl) (by rw [hd]; rfl) (by rw [hd]; rfl) (by rw [hd]; rfl)
        fun x hx => absurd hx (hnone x)
  | freed x hbefore hafter hx hrank hfreed =>
    have hrow : (s.rank r).openRow = none := by
      cases x with
      | access a => exact absurd rfl (hx a)
      | refresh y k => obtain rfl : y = r := hrank; exact hrefresh k hbefore
      | close y => obtain rfl : y = r := hrank; exact hclose hbefore
    obtain ⟨-, hact, hdueEq, htimerEq, hrest⟩ := hfreed
    have hopenRow : d.openRow = none := hrest.elim (fun h => h.1.trans hrow) And.left
    refine rowLawAt_of_idle (hd ▸ hact) (hd ▸ hopenRow) ?_ ?_ fun x hx => by rw [hafter] at hx; cases hx
    · rw [hd, hdueEq]; exact Bool.eq_false_iff.mpr fun h => hdue h hrow
    · rw [hd, htimerEq]; exact not_not.mp fun h => htimer h hrow
  | woken hpause hbus =>
    have hnotReady : (s.rank r).state ≠ .ready := by rw [hpause]; decide
    have hrow : (s.rank r).openRow = none := not_not.mp fun h => hnotReady (hready h)
    refine rowLawAt_of_idle (by rw [hd]; rfl) (by rw [hd]; exact hrow) ?_ ?_ fun x hx hxr => ?_
    · rw [hd]; exact Bool.eq_false_iff.mpr fun h => hdue h hrow
    · rw [hd]; exact not_not.mp fun h => htimer h hrow
    · rcases hstate (hbusy.mpr ⟨x, hbus ▸ hx, hxr⟩) with h | h <;> rw [hpause] at h <;> cases h
  | powered code hafter =>
    exact rowLawAt_of_idle (by rw [hd]; rfl) (by rw [hd]; rfl) (by rw [hd]; rfl) (by rw [hd]; rfl)
      fun x hx => by rw [hafter] at hx; cases hx

/-! ### Refresh balances -/

/-- The balance of a rank is in its range, and a refresh in progress finds it at −7 or above (R126). -/
def balanceLawAt (s : State) (r : RankId) : Prop :=
  (((s.rank r).state = .ready → -8 ≤ (s.rank r).balance ∧ (s.rank r).balance ≤ 8) ∧
      ((s.rank r).state ≠ .ready → (s.rank r).balance = 0)) ∧
    ∀ k, s.bus = some (.refresh r k) → k ≠ .wake →
      (s.rank r).state = .ready ∧ -7 ≤ (s.rank r).balance

theorem balanceLaw_iff (s : State) :
    balanceLaw s ↔ 1 ≤ s.settings.threshold.toNat ∧ ∀ r, balanceLawAt s r := by
  simp only [balanceLaw, balanceLawAt, forall_and]

theorem Change.keepsThreshold {i : Instr} {s t : State} (h : Change i s t)
    (hs : 1 ≤ s.settings.threshold.toNat) : 1 ≤ t.settings.threshold.toNat := by
  cases h with
  | adjust h => exact h.threshold hs
  | access c => unfold issueAccess markIssued; cases c.work <;> exact hs
  | read a => rw [(readBack_requestSide s a).settings]; exact hs
  | write a => rw [(writeBack_requestSide s a).settings]; exact hs
  | clear => exact (by decide : 1 ≤ (6 : Byte).toNat)
  | power => exact (by decide : 1 ≤ (6 : Byte).toNat)
  | shrink | create | leave | grant | withdraw | release | cleanup | enqueue | refresh | close | free
  | wake => exact hs

/-- A control that keeps state and balance keeps the range, when no refresh of it is in progress then. -/
theorem balanceLawAt_of_same {s t : State} {r : RankId} (hs : balanceLawAt s r)
    (hstate : (t.rank r).state = (s.rank r).state) (hbalance : (t.rank r).balance = (s.rank r).balance)
    (hbus : ∀ k, t.bus = some (.refresh r k) → k ≠ .wake →
      (s.rank r).state = .ready ∧ -7 ≤ (s.rank r).balance) : balanceLawAt t r := by
  unfold balanceLawAt
  rw [hstate, hbalance]
  exact ⟨hs.1, hbus⟩

theorem Change.keepsBalanceLawAt {i : Instr} {s t : State} (h : Change i s t)
    (hthreshold : 1 ≤ s.settings.threshold.toNat) {r : RankId} (hs : balanceLawAt s r) :
    balanceLawAt t r := by
  obtain ⟨⟨hrange, hzero⟩, hbus⟩ := id hs
  have hzeroInRange : (-8 : Int) ≤ 0 ∧ (0 : Int) ≤ 8 := by decide
  have hrank := h.rank r
  generalize hd : t.rank r = d at hrank
  cases hrank with
  | adjusted h hbusEq =>
    obtain hsame | ⟨hready, hlt, hrise⟩ := h.balance
    · exact balanceLawAt_of_same hs (hd ▸ h.state) (hd ▸ hsame) (hbusEq ▸ hbus)
    · have hdready : d.state = .ready := h.state.trans hready
      have hrange := hrange hready
      unfold balanceLawAt
      rw [hd, hbusEq, hrise]
      exact ⟨⟨fun _ => by omega, fun hne => absurd hdready hne⟩,
        fun k hk hwake => ⟨hdready, by have := (hbus k hk hwake).2; omega⟩⟩
  | other hbefore hafter =>
    exact balanceLawAt_of_same hs (by rw [hd]) (by rw [hd]) fun k hk => absurd rfl (hafter _ hk)
  | refreshed k hbefore hafter hcandidate =>
    refine balanceLawAt_of_same hs (by rw [hd]; rfl) (by rw [hd]; rfl) fun j hj hwake => ?_
    cases hafter.symm.trans hj
    obtain hforced | ⟨-, hpull⟩ := hcandidate
    · obtain ⟨hready, hle, -⟩ | ⟨-, hk⟩ := forcedCandidate_state hforced
      · exact ⟨hready, by omega⟩
      · exact absurd hk hwake
    · obtain ⟨hready, -, hlow, -⟩ := (pullInCandidate_iff s r).mp hpull
      exact ⟨hready, by omega⟩
  | closing hbefore hafter =>
    refine balanceLawAt_of_same hs (by rw [hd]; rfl) (by rw [hd]; rfl) fun k hk => ?_
    cases hafter.symm.trans hk
  | accessed a hbefore hafter =>
    refine balanceLawAt_of_same hs ?_ ?_ fun k hk => ?_
    · rw [hd]; unfold rankForAccess; split <;> rfl
    · rw [hd]; unfold rankForAccess; split <;> rfl
    · cases hafter.symm.trans hk
  | completed a hbefore hafter =>
    refine balanceLawAt_of_same hs ?_ ?_ fun k hk => ?_
    · rw [hd]; cases a.policy <;> rfl
    · rw [hd]; cases a.policy <;> rfl
    · cases hafter.symm.trans hk
  | freed x hbefore hafter hx hrank hfreed =>
    have hnone : ∀ k, t.bus ≠ some (.refresh r k) := fun k hk => by cases hafter.symm.trans hk
    obtain ⟨-, -, -, -, ⟨-, hstate, hbalance⟩ | ⟨-, hready, hbalance, -⟩⟩ := hfreed
    · obtain hsame | ⟨hless, y, k, rfl, hwake⟩ := hbalance
      · exact balanceLawAt_of_same hs (hd ▸ hstate) (hd ▸ hsame) fun k hk => absurd hk (hnone k)
      · obtain rfl : y = r := hrank
        obtain ⟨hready, hlow⟩ := hbus k hbefore hwake
        have hrange := hrange hready
        unfold balanceLawAt
        rw [hd, hless]
        exact ⟨⟨fun _ => by omega, fun hne => absurd (hstate.trans hready) hne⟩,
          fun k hk => absurd hk (hnone k)⟩
    · unfold balanceLawAt
      rw [hd, hbalance]
      exact ⟨⟨fun _ => by omega, fun _ => rfl⟩, fun k hk => absurd hk (hnone k)⟩
  | woken hpause hbusEq =>
    unfold balanceLawAt
    rw [hd, hbusEq]
    refine ⟨⟨fun _ => hzeroInRange, fun _ => rfl⟩, fun k hk hwake => ?_⟩
    exact absurd (hpause.symm.trans (hbus k hk hwake).1) RankState.noConfusion
  | powered code hafter =>
    unfold balanceLawAt
    rw [hd]
    exact ⟨⟨fun _ => hzeroInRange, fun _ => rfl⟩, fun k hk => by cases hafter.symm.trans hk⟩

/-! ### The statement -/

theorem tick_rank (s : State) (r : RankId) : (tick s).rank r = tickRank (s.rank r) := by
  fin_cases r <;> rfl

theorem rowLawAt_tick {s : State} {r : RankId} (hs : rowLawAt s r) : rowLawAt (tick s) r := by
  obtain ⟨hbusy, hstate, hopen, hidle, hready, hdue, htimer, hrefresh, hclose, haccess⟩ := hs
  rw [rowLawAt_iff, tick_rank]
  exact ⟨hbusy, hstate, hopen, hidle, hready, hdue,
    fun hne => htimer fun h => hne (by rw [tickRank, h]; rfl), hrefresh, hclose, haccess⟩

theorem balanceLawAt_tick {s : State} {r : RankId} (hs : balanceLawAt s r) :
    balanceLawAt (tick s) r :=
  balanceLawAt_of_same hs (by rw [tick_rank]; rfl) (by rw [tick_rank]; rfl) hs.2

/-- Settles O57: a rank's control changes with the operation on it, and the balance rises only below +8 and
falls only from −7 or above. -/
theorem stepKeepsBalancesAndOpenRows : Obligations.StepKeepsBalancesAndOpenRows := by
  unfold Obligations.StepKeepsBalancesAndOpenRows
  intro s t h
  refine ⟨fun hs => ?_, fun hs => ?_⟩
  · rw [balanceLaw_iff] at hs ⊢
    exact step_keeps (P := fun s => 1 ≤ s.settings.threshold.toNat ∧ ∀ r, balanceLawAt s r)
      (fun _ _ _ hchange hs =>
        ⟨hchange.keepsThreshold hs.1, fun r => hchange.keepsBalanceLawAt hs.1 (hs.2 r)⟩)
      (fun _ hs => ⟨hs.1, fun r => balanceLawAt_tick (hs.2 r)⟩) (fun _ _ hs => hs) hs h
  · exact step_keeps (P := rowLaw) (fun _ _ _ hchange hs r => hchange.keepsRowLawAt (hs r))
      (fun _ hs r => rowLawAt_tick (hs r)) (fun _ _ hs => hs) hs h

end Sys2Proof.Machine
end

section
/-! PROOF. What every step keeps of memory, settings, windows and the warm reset, and what no command
changes: the queue of waiting commands, and a snapshot that is not read again. -/

set_option Elab.async false

namespace Sys2Proof.Machine

/-! ### Memory and queue -/

theorem Change.pending {i : Instr} {s t : State} (h : Change i s t) : t.pending = s.pending := by
  cases h with
  | adjust h => exact h.pending
  | access c => unfold issueAccess markIssued; cases c.work <;> rfl
  | read a => exact (readBack_requestSide s a).pending
  | write a => exact (writeBack_requestSide s a).pending
  | shrink | create | leave | grant | withdraw | release | cleanup | enqueue | refresh | close | free
  | wake | clear | power => rfl

/-- Settles O3: of the elementary changes only the completion of a write and a power-on reset touch the
memory, and none the queue. -/
theorem commandsLeaveQueueAndMemory : Obligations.CommandsLeaveQueueAndMemory := by
  unfold Obligations.CommandsLeaveQueueAndMemory
  intro c s t h
  have hchanges := exec_changes h
  refine ⟨hchanges.keeps (P := fun u => u.pending = s.pending)
    (fun _ _ hchange hu => hchange.pending.trans hu) rfl, fun hwrite hassert hrelease a => ?_⟩
  refine hchanges.keeps (P := fun u => u.memory.read u.powerOns a = s.memory.read s.powerOns a)
    (fun u v hchange hu => ?_) rfl
  obtain ⟨hmemory, hpower⟩ | ⟨hi, -⟩ | ⟨hi, -⟩ := hchange.memory
  · rw [hmemory, hpower]; exact hu
  · exact absurd hi hwrite
  · obtain hi | ⟨sel, x, y, hi⟩ := hi
    · exact absurd hi hassert
    · exact absurd hi (hrelease sel x y)

theorem Change.keepsMemory {i : Instr} {s t : State} (h : Change i s t) (hs : memoryLaw s) :
    memoryLaw t := by
  unfold memoryLaw at *
  obtain ⟨hmemory, -⟩ | ⟨-, a, -, -, rfl⟩ | ⟨-, -, hmemory⟩ := h.memory
  · rw [hmemory]; exact hs
  · rw [(writeBack_requestSide s a).memory]
    exact Memory.storeWords_wf _ _ _ hs
  · rw [hmemory]; rfl

/-! ### Ranges -/

theorem defaultSettings_inRange : defaultSettings.inRange := by
  unfold Settings.inRange
  decide

theorem issueAccess_settings (s : State) (c : Candidate) :
    (issueAccess s c).settings = s.settings := by
  unfold issueAccess markIssued
  cases c.work <;> rfl

theorem Change.keepsSettings {i : Instr} {s t : State} (h : Change i s t)
    (hs : s.settings.inRange) : t.settings.inRange := by
  cases h with
  | adjust h => exact h.settings hs
  | access c => rw [issueAccess_settings]; exact hs
  | read a => rw [(readBack_requestSide s a).settings]; exact hs
  | write a => rw [(writeBack_requestSide s a).settings]; exact hs
  | clear => exact defaultSettings_inRange
  | power => exact defaultSettings_inRange
  | shrink | create | leave | grant | withdraw | release | cleanup | enqueue | refresh | close | free
  | wake => exact hs

theorem streakCount_afterWin (x : Scheduler) (w : Port) (hit : Bool) :
    (afterWin x w hit).streakCount ≤ 15 := by
  unfold afterWin
  dsimp only
  split
  · split
    · exact Nat.min_le_left _ _
    · decide
  · decide

theorem Change.keepsStreak {i : Instr} {s t : State} (h : Change i s t)
    (hs : s.sched.streakCount ≤ 15) : t.sched.streakCount ≤ 15 := by
  cases h with
  | adjust h => rw [h.streak]; exact hs
  | access c => exact streakCount_afterWin _ _ _
  | read a => rw [(readBack_requestSide s a).sched]; exact hs
  | write a => rw [(writeBack_requestSide s a).sched]; exact hs
  | clear => exact Nat.zero_le _
  | power => exact Nat.zero_le _
  | shrink | create | leave | grant | withdraw | release | cleanup | enqueue | refresh | close | free
  | wake => exact hs

/-- Limit and garble count of a port are in their ranges (R14, R154). -/
def PortUnit.inRange (u : PortUnit) : Prop :=
  (2 ≤ u.limit.toNat ∧ u.limit.toNat ≤ 10) ∧ u.garbleCount ≤ 3

theorem idlePort_inRange : idlePort.inRange := by
  unfold PortUnit.inRange
  decide

theorem PortChange.inRange {s t : State} {p : Port} {v : PortUnit} (h : PortChange s t p v)
    (hs : (s.port p).inRange) : v.inRange := by
  cases h with
  | adjusted h =>
    exact ⟨h.limit.elim (fun h => h ▸ hs.1) id, h.garble.elim (fun h => h ▸ hs.2) id⟩
  | cleaned => exact ⟨hs.1, Nat.zero_le _⟩
  | cleared => exact idlePort_inRange
  | powered => exact idlePort_inRange
  | granted | withdrawn | released | enqueued | issued | retired => exact hs

theorem rangeLaw_iff (s : State) :
    rangeLaw s ↔
      s.settings.inRange ∧ s.sched.streakCount ≤ 15 ∧ ∀ p, (s.port p).inRange := by
  simp only [rangeLaw, Settings.inRange, PortUnit.inRange, and_assoc]

theorem Change.keepsRanges {i : Instr} {s t : State} (h : Change i s t) (hs : rangeLaw s) :
    rangeLaw t := by
  rw [rangeLaw_iff] at hs ⊢
  obtain ⟨hsettings, hstreak, hports⟩ := hs
  exact ⟨h.keepsSettings hsettings, h.keepsStreak hstreak, fun p => (h.port p).inRange (hports p)⟩

theorem rangeLaw_tick {s : State} (hs : rangeLaw s) : rangeLaw (tick s) := by
  rw [rangeLaw_iff] at hs ⊢
  obtain ⟨hsettings, hstreak, hports⟩ := hs
  refine ⟨hsettings, hstreak, fun p => ?_⟩
  rw [tick_port]
  exact hports p

/-! ### Windows -/

theorem offWindow_get (w : WindowId) : (Oct.all offWindow).get w = offWindow :=
  Oct.get_all _ _

theorem Change.keepsStaged {i : Instr} {s t : State} (h : Change i s t) (hs : stagedLaw s) :
    stagedLaw t := by
  have hsame : t.windows = s.windows → stagedLaw t := by
    intro hwindows w
    rw [State.window_congr hwindows w]
    exact hs w
  have hoff : t.windows = Oct.all offWindow → stagedLaw t := by
    intro hwindows w _
    rw [State.window, hwindows, offWindow_get]
    rfl
  cases h with
  | adjust h => exact fun w => (h.window w).elim (fun h => h ▸ hs w) id
  | access c => exact hsame (by unfold issueAccess markIssued; cases c.work <;> rfl)
  | read a => exact hsame (readBack_requestSide s a).windows
  | write a => exact hsame (writeBack_requestSide s a).windows
  | clear => exact hoff rfl
  | power => exact hoff rfl
  | shrink | create | leave | grant | withdraw | release | cleanup | enqueue | refresh | close | free
  | wake => exact hsame rfl

/-! ### The warm reset -/

/-- A command that is no completion leaves a waiting warm reset an operation to wait for (R181). -/
theorem Change.keepsWarm {i : Instr} {s t : State} (h : Change i s t) (hi : completes i = false)
    (hs : warmLaw s) : warmLaw t := by
  cases h with
  | adjust h =>
    intro hwaiting
    rw [h.bus]
    obtain hsame | hidle | ⟨-, hbus⟩ := h.warm
    · exact hs (hsame ▸ hwaiting)
    · rw [hidle] at hwaiting; cases hwaiting
    · exact hbus
  | refresh | close | access => exact fun _ => Option.some_ne_none _
  | read a _ _ hcompletes => rw [hi] at hcompletes; cases hcompletes
  | free x d _ _ _ hcompletes => rw [hi] at hcompletes; cases hcompletes
  | write a _ _ hwrite => rw [hwrite] at hi; cases hi
  | clear => exact WarmPhase.noConfusion
  | power => exact WarmPhase.noConfusion
  | shrink | create | leave | grant | withdraw | release | cleanup | enqueue | wake => exact hs

theorem endWarmReset_ne_waiting {s : State} (h : s.warm ≠ .waiting) :
    (endWarmReset s).warm ≠ .waiting := by
  unfold endWarmReset
  split
  · exact WarmPhase.noConfusion
  · exact h

/-- A completion leaves no warm reset waiting (R181). -/
theorem warmStep_ne_waiting (s : State) : (warmStep s).warm ≠ .waiting := by
  unfold warmStep
  split
  next => exact endWarmReset_ne_waiting WarmPhase.noConfusion
  next h => exact endWarmReset_ne_waiting h

/-- A completion does nothing, or ends with the warm reset's test. -/
theorem exec_completes {i : Instr} (hi : completes i = true) {s t : State} (h : exec i s = .next t) :
    t = s ∨ ∃ u, t = warmStep u := by
  cases i with
  | accessReadComplete =>
    simp only [exec, execAccessReadComplete] at h
    split at h
    · split_ifs at h
      · exact .inl (Host.Outcome.next.inj h).symm
      · exact .inr ⟨_, (Host.Outcome.next.inj h).symm⟩
    · exact .inl (Host.Outcome.next.inj h).symm
  | accessWriteComplete =>
    simp only [exec, execAccessWriteComplete] at h
    split at h
    · split_ifs at h
      · exact .inl (Host.Outcome.next.inj h).symm
      · exact .inr ⟨_, (Host.Outcome.next.inj h).symm⟩
    · exact .inl (Host.Outcome.next.inj h).symm
  | refreshComplete =>
    simp only [exec, execRefreshComplete] at h
    split at h
    · exact .inr ⟨_, (Host.Outcome.next.inj h).symm⟩
    · exact .inr ⟨_, (Host.Outcome.next.inj h).symm⟩
    · exact .inl (Host.Outcome.next.inj h).symm
  | initializationRefreshComplete =>
    simp only [exec, execInitializationRefreshComplete] at h
    split at h
    · exact .inr ⟨_, (Host.Outcome.next.inj h).symm⟩
    · exact .inl (Host.Outcome.next.inj h).symm
  | closeComplete =>
    simp only [exec, execCloseComplete] at h
    split at h
    · exact .inr ⟨_, (Host.Outcome.next.inj h).symm⟩
    · exact .inl (Host.Outcome.next.inj h).symm
  | _ => cases hi

theorem exec_keepsWarm {i : Instr} {s t : State} (h : exec i s = .next t) (hs : warmLaw s) :
    warmLaw t := by
  cases hi : completes i with
  | false => exact (exec_changes h).keeps (fun _ _ hchange => hchange.keepsWarm hi) hs
  | true =>
    obtain rfl | ⟨u, rfl⟩ := exec_completes hi h
    · exact hs
    · exact fun hwaiting => absurd hwaiting (warmStep_ne_waiting u)

theorem step_keepsWarm {s t : State} (hs : warmLaw s) (h : step s = .next t) : warmLaw t := by
  unfold step at h
  split at h
  next => cases h; exact hs
  next c rest _ => exact exec_keepsWarm (s := { s with pending := rest }) h hs

/-- Settles O50: stored words keep the memory's order, settings and limits are clamped when written, a
completion never leaves a warm reset waiting, and an activation copies the staged record. -/
theorem stepKeepsMemoryRangesAndWindows : Obligations.StepKeepsMemoryRangesAndWindows := by
  unfold Obligations.StepKeepsMemoryRangesAndWindows
  intro s t h
  exact ⟨fun hs => step_keeps (fun _ _ _ hchange => hchange.keepsMemory) (fun _ hs => hs)
      (fun _ _ hs => hs) hs h,
    fun hs => step_keeps (fun _ _ _ hchange => hchange.keepsRanges) (fun _ => rangeLaw_tick)
      (fun _ _ hs => hs) hs h,
    fun hs => step_keepsWarm hs h,
    fun hs => step_keeps (fun _ _ _ hchange => hchange.keepsStaged) (fun _ hs => hs)
      (fun _ _ hs => hs) hs h⟩

/-! ### Snapshots -/

theorem snapshotValue_congr {s t : State} (hports : ∀ p, (t.port p).snapshots = (s.port p).snapshots)
    (hdevice : t.snapshots = s.snapshots) (hrows : t.rowSnapshots = s.rowSnapshots) (c : CounterId) :
    snapshotValue t c = snapshotValue s c := by
  cases c with
  | port p k => rw [snapshotValue, hports]; rfl
  | device k => rw [snapshotValue, hdevice]; rfl
  | row r => rw [snapshotValue, hrows]; rfl

theorem snapshots_setPort {s : State} {p : Port} {u : PortUnit}
    (h : u.snapshots = (s.port p).snapshots) (q : Port) :
    ((s.setPort p u).port q).snapshots = (s.port q).snapshots := by
  by_cases hq : q = p
  · subst hq; rw [State.setPort_port_same, h]
  · rw [State.setPort_port_ne _ _ hq]

theorem snapshots_cleanedUp (s : State) (p q : Port) :
    ((cleanedUp s p).port q).snapshots = (s.port q).snapshots := by
  by_cases hq : q = p
  · subst hq; rw [cleanedUp_port]
  · rw [cleanedUp_port_ne _ hq]

/-- A snapshot outlasts every elementary change but its own load, the clearing point and power-on
reset. -/
theorem Change.keepsSnapshot {i : Instr} {s t : State} (h : Change i s t) {c : CounterId}
    (hload : i ≠ .counterLowByteRead c) (hassert : i ≠ .powerOnResetAssert)
    (hrelease : ∀ sel a b, i ≠ .powerOnResetRelease sel a b) (hbegins : ¬ beginsWarmReset i)
    (hwarm : s.warm ≠ .waiting) :
    snapshotValue t c = snapshotValue s c ∧ t.warm ≠ .waiting := by
  have hside : RequestSide s t → (∀ p, (t.port p).snapshots = (s.port p).snapshots) →
      snapshotValue t c = snapshotValue s c ∧ t.warm ≠ .waiting := fun hside hports =>
    ⟨snapshotValue_congr hports hside.snapshots hside.rowSnapshots c, by rw [hside.warm]; exact hwarm⟩
  cases h with
  | adjust h =>
    refine ⟨h.snapshot c hload, ?_⟩
    obtain hsame | hidle | ⟨hi, -⟩ := h.warm
    · rw [hsame]; exact hwarm
    · rw [hidle]; exact fun h => nomatch h
    · exact absurd hi hbegins
  | grant x => exact hside (grant_requestSide s x) (snapshots_setPort (s := s) (p := x.port) rfl)
  | withdraw p =>
    exact hside ((freeHold_requestSide s p).trans (withdrawClaim_requestSide _ p))
      (snapshots_setPort (s := s) (p := p) rfl)
  | release p kept =>
    exact hside ((freeHold_requestSide s p).trans (table_requestSide _ kept))
      (snapshots_setPort (s := s) (p := p) rfl)
  | cleanup p m =>
    exact hside ((setPort_requestSide s p _).trans rfl) fun q =>
      (snapshots_cleanedUp _ p q).trans (snapshots_setPort (by rfl) q)
  | enqueue p addr n words w place =>
    exact hside (enqueuePut_requestSide s p addr n words w place)
      (snapshots_setPort (s := s) (p := p) rfl)
  | access x =>
    have hports : ∀ q, ((issueAccess s x).port q).snapshots = (s.port q).snapshots := by
      intro q
      rw [State.port, issueAccess_ports]
      split
      · rfl
      · exact snapshots_setPort (s := s) (p := x.port) (by rfl) q
    have hrest : (issueAccess s x).snapshots = s.snapshots ∧
        (issueAccess s x).rowSnapshots = s.rowSnapshots ∧ (issueAccess s x).warm = s.warm := by
      unfold issueAccess markIssued
      cases x.work <;> exact ⟨rfl, rfl, rfl⟩
    exact ⟨snapshotValue_congr hports hrest.1 hrest.2.1 c, by rw [hrest.2.2]; exact hwarm⟩
  | read a =>
    have h := readBack_requestSide s a
    exact ⟨snapshotValue_congr (fun p => by rw [readBack_port]; rfl) h.snapshots h.rowSnapshots c,
      by rw [h.warm]; exact hwarm⟩
  | write a =>
    have h := writeBack_requestSide s a
    refine ⟨snapshotValue_congr (fun p => ?_) h.snapshots h.rowSnapshots c, by rw [h.warm]; exact hwarm⟩
    rw [State.port, writeBack_ports]
    split
    · exact snapshots_setPort (s := s) (p := a.port) (by rfl) p
    · rfl
  | clear _ hreset => exact absurd hreset (not_or.mpr ⟨hwarm, hbegins⟩)
  | power _ _ _ _ _ _ hi =>
    exact absurd hi (not_or.mpr ⟨hassert, fun ⟨x, a, b, h⟩ => hrelease x a b h⟩)
  | shrink | create | leave | refresh | close | free | wake =>
    exact ⟨by cases c <;> rfl, hwarm⟩

theorem snapshotValue_loadSnapshot (s : State) (c : CounterId) (v : BitVec 16) :
    snapshotValue (loadSnapshot s c v) c = v := by
  cases c with
  | port p k =>
    rw [snapshotValue, loadSnapshot, State.setPort_port_same]
    exact PortCounters.get_set_same _ _ _
  | device k => exact DeviceCounters.get_set_same _ _ _
  | row r => exact PerRank.get_set_same _ _ _

theorem counterValue_loadSnapshot (s : State) (c d : CounterId) (v : BitVec 16) :
    counterValue (loadSnapshot s c v) d = counterValue s d := by
  cases d with
  | port p k =>
    exact congrArg (fun x : PortCounters => x.get k)
      (loadSnapshot_field s c v (·.counters) (fun _ _ => rfl) p)
  | device k => cases c <;> rfl
  | row r => cases c <;> rfl

theorem inUse_loadSnapshot (s : State) (c : CounterId) (v : BitVec 16) (w : WindowId) :
    inUse (loadSnapshot s c v) w = inUse s w := by
  have htable : (loadSnapshot s c v).table = s.table := by cases c <;> rfl
  have hport : ∀ p, ((loadSnapshot s c v).port p).queue = (s.port p).queue ∧
      ((loadSnapshot s c v).port p).hold = (s.port p).hold := fun p =>
    ⟨loadSnapshot_field s c v (·.queue) (fun _ _ => rfl) p,
      loadSnapshot_field s c v (·.hold) (fun _ _ => rfl) p⟩
  simp only [inUse, htable, hport]

/-- Loading a snapshot changes what no register reads as, but the counters' high bytes. -/
theorem readRegister_loadSnapshot (s : State) (c : CounterId) (v : BitVec 16) {x : Register}
    (hx : ∀ d, x ≠ .counterHigh d) :
    readRegister (loadSnapshot s c v) x = readRegister s x := by
  cases x with
  | counterHigh d => exact absurd rfl (hx d)
  | counterLow d => exact congrArg (BitVec.extractLsb' 0 8) (counterValue_loadSnapshot s c d v)
  | limit p => exact loadSnapshot_field s c v (·.limit) (fun _ _ => rfl) p
  | eventMask p => exact loadSnapshot_field s c v (·.eventMask.setWidth 8) (fun _ _ => rfl) p
  | portState p => exact loadSnapshot_field s c v (modeCode ·.mode) (fun _ _ => rfl) p
  | queueDepth p =>
    exact loadSnapshot_field s c v (BitVec.ofNat 8 ·.queue.length) (fun _ _ => rfl) p
  | control w =>
    have hwindow : (loadSnapshot s c v).window w = s.window w := by cases c <;> rfl
    rw [readRegister, readRegister, inUse_loadSnapshot, hwindow]
  | _ => cases c <;> rfl

theorem not_beginsWarmReset {i : Instr} (hwarm : i ≠ .warmReset)
    (hown : ∀ k v, i = .registerWrite k v → hasOwnWriteRow k = false) : ¬ beginsWarmReset i := by
  rintro (h | ⟨k, v, h, hrow⟩)
  · exact hwarm h
  · rw [hown k v h] at hrow
    cases hrow

/-- Settles O49: the load touches one snapshot, and of the other changes only the clearing point and
power-on reset touch any. -/
theorem counterReadsKeepASnapshot : Obligations.CounterReadsKeepASnapshot := by
  unfold Obligations.CounterReadsKeepASnapshot
  intro s c hpower
  refine ⟨⟨readCounterLow s c, ?_, rfl, ?_, ?_, ?_, ?_, ?_, ?_, ?_, ?_, ?_⟩, ?_⟩
  · change Host.Outcome.next (if s.powerOnAsserted then s else readCounterLow s c) = _
    rw [if_neg (by rw [hpower]; decide)]
  · exact snapshotValue_loadSnapshot s c _
  · exact congrArg (BitVec.extractLsb' 8 8) (snapshotValue_loadSnapshot s c (counterValue s c))
  · exact fun d => counterValue_loadSnapshot s c d _
  · exact fun d hd => snapshotValue_loadSnapshot_ne s _ hd
  · exact fun x hx => readRegister_loadSnapshot s c _ hx
  · exact (BitVec.ofNat_add (counterIndex c) 1).symm
  · cases c <;> rfl
  · cases c <;> rfl
  · cases c <;> rfl
  · intro i t h hload hassert hrelease hreset hown hwarm
    have hbegins := not_beginsWarmReset hreset hown
    exact ((exec_changes h).keeps
      (P := fun u => snapshotValue u c = snapshotValue s c ∧ u.warm ≠ .waiting)
      (fun u v hchange hu =>
        have hv := hchange.keepsSnapshot hload hassert hrelease hbegins hu.2
        ⟨hv.1.trans hu.1, hv.2⟩) ⟨rfl, hwarm⟩).1

end Sys2Proof.Machine
end

section
/-! PROOF. The request kinds past the header check (R28): what the operations make of a state in which one
port's unit, the table and the device's counters have been replaced, and which step of the check order
answers a frame. -/

set_option Elab.async false

namespace Sys2Proof.Machine

/-! ### One port's exchange -/

/-- The state with the table, the device's counters and the unit of port `p` replaced: what a request of
port `p` can change, but for grants and a fault. -/
def State.with (s : State) (p : Port) (table : List Entry) (counters : DeviceCounters) (u : PortUnit) :
    State :=
  { s with table := table, counters := counters, ports := s.ports.set p u }

section

variable (s : State) (p : Port) (t : List Entry) (c : DeviceCounters) (u : PortUnit)

theorem passHeader_with : passHeader s p = s.with p s.table s.counters (s.port p).headerPassed := rfl

theorem setPort_with (v : PortUnit) : s.setPort p v = s.with p s.table s.counters v := rfl

@[simp] theorem with_port : (s.with p t c u).port p = u := PerPort.get_set_same _ _ _

@[simp] theorem with_table : (s.with p t c u).table = t := rfl

@[simp] theorem with_counters : (s.with p t c u).counters = c := rfl

@[simp] theorem with_setPort (v : PortUnit) : (s.with p t c u).setPort p v = s.with p t c v := by
  unfold State.with State.setPort
  rw [PerPort.set_set]

@[simp] theorem with_reply (a : Answer) :
    reply (s.with p t c u) p a = s.with p t c (u.answered a) := by
  rw [reply_eq, with_port, with_setPort]

@[simp] theorem with_deny (tag : Byte) (addr : Addr) (r : Reason) :
    deny (s.with p t c u) p tag addr r =
      s.with p t c ((u.raised .denied addr (.deny r)).answered (.deny tag r)) := by
  rw [deny_eq, with_port, with_setPort]

@[simp] theorem with_againFull (tag : Byte) :
    againFull (s.with p t c u) p tag = s.with p t c ((u.counted .full 1).answered (.again tag)) := by
  rw [againFull_eq, with_port, with_setPort]

@[simp] theorem with_noteHostParity (addr : Addr) (words : List HeldWord) :
    noteHostParity (s.with p t c u) p addr words = s.with p t c (u.tookData addr words) := by
  rw [noteHostParity_eq, with_port, with_setPort]

@[simp] theorem with_deliver (tag : Byte) (addr : Addr) (words : List ReadWord) :
    deliver (s.with p t c u) p tag addr words =
      s.with p t c ((u.delivered addr words).answered (.data tag words)) := by
  rw [deliver_eq, with_port, with_setPort]

@[simp] theorem with_freeEntry (n : Slot) :
    freeEntry (s.with p t c u) n = s.with p (t.filter fun x => decide (x.slot ≠ n)) c u :=
  congrArg (fun x => s.with p x c u) (freeEntry_table (s.with p t c u) n)

@[simp] theorem with_suppress (words : List ReadWord) :
    suppress (s.with p t c u) words = s.with p t (c.suppressed words) u := rfl

@[simp] theorem with_updateEntry (n : Slot) (f : Entry → Entry) :
    updateEntry (s.with p t c u) n f =
      s.with p (t.map fun e => if e.slot = n then f e else e) c u := rfl

@[simp] theorem with_addEntry (e : Entry) : addEntry (s.with p t c u) e = s.with p (t ++ [e]) c u := rfl

theorem with_dropEntry (e : Entry) :
    dropEntry (s.with p t c u) e =
      s.with p (t.filter fun x => decide (x.slot ≠ e.slot)) (c.suppressed e.readData) u := by
  rw [dropEntry, with_freeEntry, with_suppress]

theorem with_settleDrain :
    settleDrain (s.with p t c u) p =
      s.with p t c { u with mode := drainTested (s.with p t c u) p u.mode } := by
  rw [settleDrain_eq, with_port, with_setPort]

end

/-- A drain test looks at the port's queue and hold and at the table alone. -/
theorem drainTested_with (s : State) (p : Port) (t : List Entry) (c d : DeviceCounters)
    {u v : PortUnit} (hqueue : v.queue = u.queue) (hhold : v.hold = u.hold) (m : PortMode) :
    drainTested (s.with p t d v) p m = drainTested (s.with p t c u) p m :=
  drainTested_congr m rfl (by rw [with_port, with_port, hqueue]) (by rw [with_port, with_port, hhold])

/-! ### Rules of the port unit -/

section

variable (u : PortUnit) (a : Answer)

@[simp] theorem answered_frame :
    (u.answered a).queue = u.queue ∧ (u.answered a).hold = u.hold ∧ (u.answered a).mode = u.mode :=
  ⟨rfl, rfl, rfl⟩

theorem raised_frame (k : EventKind) (addr : Addr) (cause : Cause) :
    (u.raised k addr cause).queue = u.queue ∧ (u.raised k addr cause).hold = u.hold ∧
      (u.raised k addr cause).mode = u.mode :=
  ⟨rfl, rfl, rfl⟩

theorem delivered_frame (addr : Addr) (words : List ReadWord) :
    (u.delivered addr words).queue = u.queue ∧ (u.delivered addr words).hold = u.hold ∧
      (u.delivered addr words).mode = u.mode := by
  unfold PortUnit.delivered
  split <;> exact ⟨rfl, rfl, rfl⟩

end

/-! ### Which step of the check order answers -/

/-- Every frame's end is that of its port's exchange, with its kind's judgement. -/
theorem exec_frame {c : Instr} {p : Port} {tag : Byte} (h : frameOf c = some (p, tag)) (s : State) :
    ∃ judge, exec c s = .next (endFrame s p tag judge) := by
  cases c <;> simp only [frameOf, Option.some.injEq, Prod.mk.injEq, reduceCtorEq] at h
  all_goals obtain ⟨rfl, rfl⟩ := h; exact ⟨_, rfl⟩

/-- What the check order makes of a frame that the link judges (R28). -/
def judgeOf (c : Instr) (s : State) : State :=
  match c with
  | .fetch p tag addr len => judgeFetch p tag addr len s
  | .put p tag addr len data => judgePut p tag addr len data s
  | .putSync p tag addr len data => judgePutSync p tag addr len data s
  | .claim p tag addr len => judgeClaim p tag addr len s
  | .drop p tag addr _ => judgeDrop p tag addr s
  | .unnamedKindFrame p _ tag addr _ => judgeUnnamed p tag addr s
  | _ => s

/-- A request that the link judges is answered by the check order of its kind. -/
theorem exec_judged {s : State} {p : Port} (h : linkJudges s p) {c : Instr}
    (hformed : WellFormed c = true) {tag : Byte} {addr : Addr}
    (hc : refusable c = some (p, tag, addr)) : exec c s = .next (judgeOf c s) := by
  cases c with
  | fetch q tag' addr' len | claim q tag' addr' len | drop q tag' addr' len
  | unnamedKindFrame q kind tag' addr' len =>
    obtain ⟨rfl, -, -⟩ := Prod.mk.inj (Option.some.inj hc)
    exact congrArg Host.Outcome.next (endFrame_judged h _ _)
  | put q tag' addr' len data | putSync q tag' addr' len data =>
    obtain ⟨rfl, -, -⟩ := Prod.mk.inj (Option.some.inj hc)
    refine congrArg Host.Outcome.next ((endFrame_judged h _ _).trans ?_)
    exact if_pos hformed
  | _ => cases hc

/-- What a request that creates work is decided as from step 7 on, when it matched nothing. -/
def freshOf (c : Instr) (s : State) : State :=
  match c with
  | .fetch p tag addr len => fetchFresh s p tag addr len
  | .put p tag addr len data => putFresh s p tag addr len data
  | .putSync p tag addr len data => putSyncFresh s p tag addr len data
  | .claim p tag addr len => claimFresh s p tag addr len
  | _ => s

/-- What a request is decided as when it matched an entry. -/
def matchedOf (c : Instr) (e : Entry) (s : State) : State :=
  match c with
  | .fetch p tag addr len => fetchMatched s p tag addr len e
  | .putSync p tag addr len data => putSyncMatched s p tag addr len data e
  | .claim p tag addr len => claimMatched s p tag addr len e
  | _ => s

/-- Step 3 (R32). -/
theorem judgeOf_portOff {s : State} {p : Port} {c : Instr} {tag : Byte} {addr : Addr}
    (hc : refusable c = some (p, tag, addr))
    (hoff : (s.port p).mode = .off ∨ (s.port p).mode = .fault) :
    judgeOf c s = s.setPort p ((s.port p).refused tag addr .portOff) := by
  have hrefuses : refusesAll (passHeader s p) p = true := by
    rw [refusesAll_passHeader, refusesAll_iff]
    exact hoff
  rw [← deny_passHeader]
  cases c with
  | fetch q tag' addr' len | put q tag' addr' len data | putSync q tag' addr' len data
  | claim q tag' addr' len | drop q tag' addr' len | unnamedKindFrame q kind tag' addr' len =>
    obtain ⟨rfl, rfl, rfl⟩ : q = p ∧ tag' = tag ∧ addr' = addr := by simpa [refusable] using hc
    exact if_pos hrefuses
  | _ => cases hc

theorem dropFormOk_iff (addr : Addr) : dropFormOk addr = true ↔ ¬ addr.toNat % 64 ≠ 0 := by
  simp [dropFormOk]

/-- Step 4 (R33). -/
theorem judgeOf_form {s : State} {p : Port} {c : Instr} {tag : Byte} {addr : Addr}
    (hc : refusable c = some (p, tag, addr)) (hoff : (s.port p).mode ≠ .off)
    (hfault : (s.port p).mode ≠ .fault) (hform : malformed c) :
    judgeOf c s = s.setPort p ((s.port p).refused tag addr .form) := by
  have hon := refusesAll_eq_false hoff hfault
  have hbad : ∀ {b : Bool} {q : Prop}, (b = true ↔ ¬ q) → q → (!b) = true := by
    intro b q hiff hq
    cases b with
    | false => rfl
    | true => exact absurd hq (hiff.mp rfl)
  rw [← deny_passHeader]
  cases c with
  | fetch q tag' addr' len | put q tag' addr' len data | putSync q tag' addr' len data =>
    obtain ⟨rfl, rfl, rfl⟩ : q = p ∧ tag' = tag ∧ addr' = addr := by simpa [refusable] using hc
    refine (if_neg ?_).trans (if_pos (hbad (wordFormOk_iff _ _) hform))
    rw [hon]; decide
  | claim q tag' addr' len =>
    obtain ⟨rfl, rfl, rfl⟩ : q = p ∧ tag' = tag ∧ addr' = addr := by simpa [refusable] using hc
    refine (if_neg ?_).trans (if_pos (hbad (claimFormOk_iff _ _) hform))
    rw [hon]; decide
  | drop q tag' addr' len =>
    obtain ⟨rfl, rfl, rfl⟩ : q = p ∧ tag' = tag ∧ addr' = addr := by simpa [refusable] using hc
    refine (if_neg ?_).trans (if_pos (hbad (dropFormOk_iff _) hform))
    rw [hon]; decide
  | unnamedKindFrame q kind tag' addr' len =>
    obtain ⟨rfl, rfl, rfl⟩ : q = p ∧ tag' = tag ∧ addr' = addr := by simpa [refusable] using hc
    refine if_neg ?_
    rw [hon]; decide
  | _ => cases hc

/-! ### The matching step (R8, R9) -/

section

variable {s : State} {p : Port} {tag : Byte} {addr : Addr} {len : Byte}
  (hon : refusesAll (passHeader s p) p = false)

include hon

theorem judgeFetch_formed (hform : wordFormOk addr len = true) :
    (matchKey s p .fetch addr = .fresh →
        judgeFetch p tag addr len s = fetchFresh (passHeader s p) p tag addr len) ∧
      (matchKey s p .fetch addr = .orphan →
        judgeFetch p tag addr len s = reply (passHeader s p) p (.again tag)) ∧
      ∀ e, matchKey s p .fetch addr = .entry e →
        judgeFetch p tag addr len s = fetchMatched (passHeader s p) p tag addr len e := by
  have h : matchKey (passHeader s p) p .fetch addr = matchKey s p .fetch addr := rfl
  refine ⟨fun hm => ?_, fun hm => ?_, fun e hm => ?_⟩ <;>
    simp only [judgeFetch, hon, hform, h, hm, Bool.not_true, Bool.false_eq_true, if_false]

theorem judgePut_formed (hform : wordFormOk addr len = true) (data : List LinkWord) :
    judgePut p tag addr len data s = putFresh (passHeader s p) p tag addr len data := by
  simp only [judgePut, hon, hform, Bool.not_true, Bool.false_eq_true, if_false]

theorem judgePutSync_formed (hform : wordFormOk addr len = true) (data : List LinkWord) :
    (matchKey s p .putSync addr = .fresh →
        judgePutSync p tag addr len data s = putSyncFresh (passHeader s p) p tag addr len data) ∧
      (matchKey s p .putSync addr = .orphan →
        judgePutSync p tag addr len data s = reply (passHeader s p) p (.again tag)) ∧
      ∀ e, matchKey s p .putSync addr = .entry e →
        judgePutSync p tag addr len data s =
          putSyncMatched (passHeader s p) p tag addr len data e := by
  have h : matchKey (passHeader s p) p .putSync addr = matchKey s p .putSync addr := rfl
  refine ⟨fun hm => ?_, fun hm => ?_, fun e hm => ?_⟩ <;>
    simp only [judgePutSync, hon, hform, h, hm, Bool.not_true, Bool.false_eq_true, if_false]

theorem judgeClaim_formed (hform : claimFormOk addr len = true) :
    (matchKey s p .claim addr = .fresh →
        judgeClaim p tag addr len s = claimFresh (passHeader s p) p tag addr len) ∧
      (matchKey s p .claim addr = .orphan →
        judgeClaim p tag addr len s = reply (passHeader s p) p (.again tag)) ∧
      ∀ e, matchKey s p .claim addr = .entry e →
        judgeClaim p tag addr len s = claimMatched (passHeader s p) p tag addr len e := by
  have h : matchKey (passHeader s p) p .claim addr = matchKey s p .claim addr := rfl
  refine ⟨fun hm => ?_, fun hm => ?_, fun e hm => ?_⟩ <;>
    simp only [judgeClaim, hon, hform, h, hm, Bool.not_true, Bool.false_eq_true, if_false]

end

/-- The request passes the steps up to the matching step (R29, R32, R33). -/
structure Presented (s : State) (c : Instr) (p : Port) (tag : Byte) (addr : Addr) : Prop where
  judged : linkJudges s p
  off : (s.port p).mode ≠ .off
  fault : (s.port p).mode ≠ .fault
  wellFormed : WellFormed c = true
  formed : ¬ malformed c
  operands : refusable c = some (p, tag, addr)

/-- What the matching step finds decides a FETCH, PUT_SYNC or CLAIM (R8, R9). -/
theorem Presented.decided {s : State} {c : Instr} {p : Port} {tag : Byte} {addr : Addr}
    (h : Presented s c p tag addr) {m : EntryKind} (hm : matchedKind c = some m) :
    (matchKey s p m addr = .fresh → exec c s = .next (freshOf c (passHeader s p))) ∧
      (matchKey s p m addr = .orphan →
        exec c s = .next (reply (passHeader s p) p (.again tag))) ∧
      ∀ e, matchKey s p m addr = .entry e →
        exec c s = .next (matchedOf c e (passHeader s p)) := by
  rw [exec_judged h.judged h.wellFormed h.operands]
  have hon := refusesAll_eq_false h.off h.fault
  have hc := h.operands
  have hformed := h.formed
  simp only [Host.Outcome.next.injEq]
  cases c with
  | fetch q tag' addr' len =>
    obtain ⟨rfl, rfl, rfl⟩ : q = p ∧ tag' = tag ∧ addr' = addr := by simpa [refusable] using hc
    cases hm
    exact judgeFetch_formed hon ((wordFormOk_iff _ _).mpr hformed)
  | putSync q tag' addr' len data =>
    obtain ⟨rfl, rfl, rfl⟩ : q = p ∧ tag' = tag ∧ addr' = addr := by simpa [refusable] using hc
    cases hm
    exact judgePutSync_formed hon ((wordFormOk_iff _ _).mpr hformed) data
  | claim q tag' addr' len =>
    obtain ⟨rfl, rfl, rfl⟩ : q = p ∧ tag' = tag ∧ addr' = addr := by simpa [refusable] using hc
    cases hm
    exact judgeClaim_formed hon ((claimFormOk_iff _ _).mpr hformed)
  | _ => cases hm

/-- A PUT is compared with no entry (R8). -/
theorem Presented.put {s : State} {p : Port} {tag : Byte} {addr : Addr} {len : Byte}
    {data : List LinkWord} (h : Presented s (.put p tag addr len data) p tag addr) :
    exec (.put p tag addr len data) s = .next (putFresh (passHeader s p) p tag addr len data) :=
  (exec_judged h.judged h.wellFormed h.operands).trans (congrArg Host.Outcome.next
    (judgePut_formed (refusesAll_eq_false h.off h.fault) ((wordFormOk_iff _ _).mpr h.formed) data))

/-- A request that creates work and matches nothing is decided from step 7 on. -/
theorem Presented.fresh {s : State} {c : Instr} {p : Port} {tag : Byte} {addr : Addr}
    (h : Presented s c p tag addr) {k : Purpose} (hk : purposeOf c = some k)
    (hfresh : ∀ m, matchedKind c = some m → ∀ e ∈ s.table, ¬ e.hasKey p m addr) :
    exec c s = .next (freshOf c (passHeader s p)) := by
  cases c with
  | put q tag' addr' len data =>
    obtain ⟨rfl, rfl, rfl⟩ : q = p ∧ tag' = tag ∧ addr' = addr := by
      simpa [refusable] using h.operands
    exact h.put
  | fetch | putSync | claim => exact (h.decided rfl).1 (matchKey_fresh (hfresh _ rfl))
  | _ => cases hk

end Sys2Proof.Machine
end

section
/-! PROOF. The check order (R28): its refusals, what the creation of an entry brings, and a PUT's end. -/

set_option Elab.async false

namespace Sys2Proof.Machine

/-! ### Steps 7 to 9 -/

theorem gate_quiesced {s : State} {p : Port} {k : Purpose} {addr : Addr}
    (h : (s.port p).mode = .draining ∨ (s.port p).mode = .quiet) :
    gate s p k addr = .refuse .quiesced :=
  if_pos h

section

variable {s : State} {p : Port} {k : Purpose} {addr : Addr} (hactive : (s.port p).mode = .active)

include hactive

theorem gate_window (hw : decodeWindow s p k addr = none) : gate s p k addr = .refuse .window := by
  simp [gate, hactive, hw]

theorem gate_noMemory {w : WindowId} (hw : decodeWindow s p k addr = some w)
    (hmem : totalCapacity s ≤ addr.toNat) : gate s p k addr = .refuse .noMemory := by
  simp [gate, hactive, hw, (placeOf_eq_none s addr).mpr hmem]

theorem gate_pass_of_lt {w : WindowId} (hw : decodeWindow s p k addr = some w)
    (hmem : addr.toNat < totalCapacity s) : ∃ place, gate s p k addr = .pass w place := by
  cases hplace : placeOf s addr with
  | none => exact absurd ((placeOf_eq_none s addr).mp hplace) (Nat.not_le.mpr hmem)
  | some place => exact ⟨place, gate_pass hactive hw hplace⟩

end

/-- A refusal at steps 7 to 9 is answered DENY (R37 to R39). -/
theorem freshOf_refused {c : Instr} {p : Port} {tag : Byte} {addr : Addr}
    (hc : refusable c = some (p, tag, addr)) {k : Purpose} (hk : purposeOf c = some k) {s : State}
    {r : Reason} (hgate : gate s p k addr = .refuse r) : freshOf c s = deny s p tag addr r := by
  cases c with
  | fetch q tag' addr' len =>
    obtain ⟨rfl, rfl, rfl⟩ : q = p ∧ tag' = tag ∧ addr' = addr := by simpa [refusable] using hc
    cases hk
    simp only [freshOf, fetchFresh, hgate]
  | put q tag' addr' len data =>
    obtain ⟨rfl, rfl, rfl⟩ : q = p ∧ tag' = tag ∧ addr' = addr := by simpa [refusable] using hc
    cases hk
    simp only [freshOf, putFresh, hgate]
  | putSync q tag' addr' len data =>
    obtain ⟨rfl, rfl, rfl⟩ : q = p ∧ tag' = tag ∧ addr' = addr := by simpa [refusable] using hc
    cases hk
    simp only [freshOf, putSyncFresh, hgate]
  | claim q tag' addr' len =>
    obtain ⟨rfl, rfl, rfl⟩ : q = p ∧ tag' = tag ∧ addr' = addr := by simpa [refusable] using hc
    cases hk
    simp only [freshOf, claimFresh, hgate]
  | _ => cases hk

theorem claimsAlready_passHeader (s : State) (p : Port) :
    claimsAlready (passHeader s p) p = claimsAlready s p := by
  unfold claimsAlready
  rw [passHeader_field s p p (·.hold) fun _ => rfl]
  rfl

/-- A second CLAIM is refused (R40). -/
theorem freshOf_double {c : Instr} {p : Port} {tag : Byte} {addr : Addr}
    (hc : refusable c = some (p, tag, addr)) (hk : purposeOf c = some .claim) {s : State}
    {w : WindowId} {place : Place} (hgate : gate s p .claim addr = .pass w place)
    (hclaims : claimsAlready s p = true) : freshOf c s = deny s p tag addr .double := by
  cases c with
  | claim q tag' addr' len =>
    obtain ⟨rfl, rfl, rfl⟩ : q = p ∧ tag' = tag ∧ addr' = addr := by simpa [refusable] using hc
    simp only [freshOf, claimFresh, hgate, hclaims, if_true]
  | _ => cases hk

/-- Settles O12: each step of the check order that refuses answers DENY, and the header check has returned
the garble count to 0. -/
theorem checkOrderRefuses : Obligations.CheckOrderRefuses := by
  unfold Obligations.CheckOrderRefuses
  intro s c p tag addr hjudges hformed hc refusedWith on fresh
  have hjudged := exec_judged hjudges hformed hc
  refine ⟨fun hoff => ?_, fun hon hbad => ?_, fun k hk hon hgood hfresh => ?_⟩
  · exact hjudged.trans (congrArg _ (judgeOf_portOff hc hoff))
  · exact hjudged.trans (congrArg _ (judgeOf_form hc hon.1 hon.2 hbad))
  · have hexec := Presented.fresh ⟨hjudges, hon.1, hon.2, hformed, hgood, hc⟩ hk hfresh
    have hrefused : ∀ {r}, gate s p k addr = .refuse r → refusedWith r := fun hgate =>
      hexec.trans (congrArg _ ((freshOf_refused hc hk (by rw [gate_passHeader, hgate])).trans
        (deny_passHeader s p tag addr _)))
    refine ⟨fun hmode => hrefused (gate_quiesced hmode), fun hactive =>
      ⟨fun hw => hrefused (gate_window hactive hw), fun w hw =>
        ⟨fun hmem => hrefused (gate_noMemory hactive hw hmem), fun hmem hclaim hdouble => ?_⟩⟩⟩
    subst hclaim
    obtain ⟨place, hgate⟩ := gate_pass_of_lt hactive hw hmem
    refine hexec.trans (congrArg _ ((freshOf_double hc hk (by rw [gate_passHeader, hgate]) ?_).trans
      (deny_passHeader s p tag addr _)))
    rw [claimsAlready_passHeader, claimsAlready_iff]
    exact hdouble

/-! ### Creation (R2, R42) -/

/-- A new entry, field by field (R2, R54). -/
theorem newEntry_eq (s : State) (n : Slot) (p : Port) (k : EntryKind) (addr : Addr) (length : Nat)
    (place : Option Place) (w : WindowId) :
    newEntry s n p k addr length place w =
      { slot := n, port := p, kind := k, state := .queued, addr := addr, length := length
        place := place, window := w
        prefetch := decide (k = .fetch) && (s.window w).active.prefetchable
        fence := (s.port p).taken
        fenceMet := decide ((s.port p).taken = (s.port p).written)
        writeData := [], readData := [], result := none
        leftover := false, orphan := false, discardTimer := none } := by
  simp only [newEntry, beq_eq_decide]

/-- A new entry looks at the windows and its port's counts alone. -/
theorem newEntry_with (s : State) (n : Slot) (p : Port) (k : EntryKind) (addr : Addr) (length : Nat)
    (place : Option Place) (w : WindowId) (t : List Entry) (c : DeviceCounters) :
    newEntry (s.with p t c (s.port p).headerPassed) n p k addr length place w =
      newEntry s n p k addr length place w := by
  simp only [newEntry, with_port]
  rfl

theorem admitRequest_some {s s' : State} {p : Port} {n : Slot} (h : makeRoom s p = some (s', n))
    (tag : Byte) (make : State → Slot → Entry) (created : State → State) :
    admitRequest s p tag make created =
      reply (created (addEntry s' (make s' n))) p (.again tag) := by
  simp only [admitRequest, h]

theorem admitRequest_none {s : State} {p : Port} (h : makeRoom s p = none) (tag : Byte)
    (make : State → Slot → Entry) (created : State → State) :
    admitRequest s p tag make created = againFull s p tag := by
  simp only [admitRequest, h]

/-- The room for a new request (R1, R15, R16): entry number `n` is FREE, or has been made FREE, with the
table `t` and the device's counters `c` as they then are. -/
structure RoomFor (s : State) (p : Port) (n : Slot) (t : List Entry) (c : DeviceCounters) : Prop where
  room : makeRoom (passHeader s p) p = some (s.with p t c (s.port p).headerPassed, n)

theorem roomFor_admitted {s : State} {p : Port} {n : Slot} (hallows : reserveAllows s p)
    (hfree : ∀ e ∈ s.table, e.slot ≠ n) (hlowest : ∀ m, m < n → ∃ e ∈ s.table, e.slot = m) :
    RoomFor s p n s.table s.counters :=
  ⟨makeRoom_admitted (by rw [admits_passHeader, admits_iff]; exact hallows) hfree hlowest⟩

section

variable {s : State} {p : Port} {tag : Byte} {addr : Addr} {len : Byte} {w : WindowId} {place : Place}
  {n : Slot} {t : List Entry} {c : DeviceCounters}

theorem fetchFresh_created (hgate : gate s p .fetch addr = .pass w place) (hroom : RoomFor s p n t c) :
    fetchFresh (passHeader s p) p tag addr len =
      s.with p (t ++ [newEntry s n p .fetch addr len.toNat (some place) w]) c
        ((s.port p).headerPassed.answered (.again tag)) := by
  simp only [fetchFresh, gate_passHeader, hgate]
  rw [admitRequest_some hroom.room, id, newEntry_with, with_addEntry, with_reply]

theorem putSyncFresh_created (hgate : gate s p .write addr = .pass w place) (hroom : RoomFor s p n t c)
    (data : List LinkWord) :
    putSyncFresh (passHeader s p) p tag addr len data =
      s.with p
        (t ++ [{ newEntry s n p .putSync addr len.toNat (some place) w with
          writeData := heldAsArrived data }]) c
        (((s.port p).headerPassed.tookData addr (heldAsArrived data)).answered (.again tag)) := by
  simp only [putSyncFresh, gate_passHeader, hgate]
  rw [admitRequest_some hroom.room, newEntry_with, with_addEntry, with_noteHostParity, with_reply,
    heldWordsOf_eq]

theorem claimFresh_created (hgate : gate s p .claim addr = .pass w place)
    (hclaims : claimsAlready s p = false) (hroom : RoomFor s p n t c) :
    claimFresh (passHeader s p) p tag addr len =
      reply
        (evaluateGrants
          (s.with p (t ++ [newEntry s n p .claim addr len.toNat none w]) c
            { (s.port p).headerPassed with lastHoldExpired := false })) p (.again tag) := by
  simp only [claimFresh, gate_passHeader, hgate, claimsAlready_passHeader, hclaims,
    Bool.false_eq_true, if_false]
  rw [admitRequest_some hroom.room, newEntry_with, with_addEntry, with_port, with_setPort]

end

theorem mode_ne_of_active {m : PortMode} (h : m = .active) : m ≠ .off ∧ m ≠ .fault := by
  rw [h]
  exact ⟨PortMode.noConfusion, PortMode.noConfusion⟩

theorem matched_fetch {p : Port} {tag : Byte} {addr : Addr} {len : Byte} {s : State}
    (h : ∀ e ∈ s.table, ¬ e.hasKey p .fetch addr) (m : EntryKind)
    (hm : matchedKind (.fetch p tag addr len) = some m) : ∀ e ∈ s.table, ¬ e.hasKey p m addr := by
  cases hm
  exact h

/-- Settles O14: with room a fresh FETCH's entry joins the young end of the table. -/
theorem fetchCreatesEntry : Obligations.FetchCreatesEntry := by
  unfold Obligations.FetchCreatesEntry
  intro s p tag addr len w place n hjudges hactive hgood hfresh hw hplace hallows hfree hlowest
  obtain ⟨hoff, hfault⟩ := mode_ne_of_active hactive
  rw [Presented.fresh ⟨hjudges, hoff, hfault, rfl, hgood, rfl⟩ rfl (matched_fetch hfresh)]
  refine congrArg _ ((fetchFresh_created (gate_pass hactive hw hplace)
    (roomFor_admitted hallows hfree hlowest)).trans ?_)
  rw [newEntry_eq, decide_eq_true rfl, Bool.true_and]
  rfl

theorem Oct.get_map {α β : Type} (q : Oct α) (f : α → β) (i : Fin 8) :
    (q.map f).get i = f (q.get i) := by
  fin_cases i <;> rfl

/-- Write data are held byte for byte as they arrived (R45, R137, R138). -/
theorem getElem?_heldAsArrived {data : List LinkWord} {j : Nat} {h : HeldWord} {x : LinkWord}
    (hh : (heldAsArrived data)[j]? = some h) (hx : data[j]? = some x) (i : Fin 8) :
    (h.get i).data = (x.get i).data ∧ (h.get i).parity = (x.get i).parity ∧
      (h.get i).mask = (x.get i).mask ∧
      ((h.get i).mark = true ↔
        (x.get i).mask = true ∧ onesOf (x.get i).data (x.get i).parity % 2 = 0) := by
  rw [heldAsArrived, List.getElem?_map, hx] at hh
  obtain rfl := Option.some.inj hh
  rw [Oct.get_map]
  refine ⟨rfl, rfl, rfl, ?_⟩
  rw [Bool.and_eq_true, decide_eq_true_iff]

/-- Settles O15: as for a FETCH, with the data held as they arrived and HOST_PARITY for a marked byte. -/
theorem putSyncCreatesEntry : Obligations.PutSyncCreatesEntry := by
  unfold Obligations.PutSyncCreatesEntry
  intro s p tag addr len data w place n hjudges hactive hgood hsize hfresh hw hplace hallows hfree
    hlowest
  obtain ⟨hoff, hfault⟩ := mode_ne_of_active hactive
  have hformed : WellFormed (.putSync p tag addr len data) = true := beq_iff_eq.mpr hsize
  refine ⟨heldAsArrived data, List.length_map _, fun j h x i hh hx => getElem?_heldAsArrived hh hx i, ?_⟩
  rw [Presented.fresh ⟨hjudges, hoff, hfault, hformed, hgood, rfl⟩ rfl
    (fun m hm => by cases hm; exact hfresh)]
  refine congrArg _ ((putSyncFresh_created (gate_pass hactive hw hplace)
    (roomFor_admitted hallows hfree hlowest) data).trans ?_)
  rw [newEntry_eq]
  rfl

/-- Settles O16: as for a FETCH, with last hold expired cleared and grants evaluated over the new claim. -/
theorem claimCreatesEntry : Obligations.ClaimCreatesEntry := by
  unfold Obligations.ClaimCreatesEntry
  intro s p tag addr len w n hjudges hactive hgood hnone hhold hw hmem hallows hfree hlowest
  obtain ⟨hoff, hfault⟩ := mode_ne_of_active hactive
  have hclaims : claimsAlready s p = false := by
    rw [← Bool.not_eq_true, claimsAlready_iff]
    exact not_or.mpr ⟨not_not.mpr hhold, fun ⟨e, he, h⟩ => hnone e he h⟩
  obtain ⟨place, hgate⟩ := gate_pass_of_lt hactive hw hmem
  rw [Presented.fresh ⟨hjudges, hoff, hfault, rfl, hgood, rfl⟩ rfl
    (fun m hm e he hkey => by cases hm; exact hnone e he ⟨hkey.1, hkey.2.1⟩)]
  refine congrArg _ ((claimFresh_created hgate hclaims
    (roomFor_admitted hallows hfree hlowest)).trans ?_)
  rw [newEntry_eq, reply_eq]
  rfl

/-! ### No room (R16, R43) -/

/-- The table without the entry of one number (R3). -/
theorem filter_slot_ne {s : State} (hs : slotsDistinct s) {older younger : List Entry} {e : Entry}
    (h : s.table = older ++ e :: younger) :
    (s.table.filter fun x => decide (x.slot ≠ e.slot)) = older ++ younger := by
  have hne : ∀ x ∈ older ++ younger, x.slot ≠ e.slot := by
    unfold slotsDistinct at hs
    rw [h, List.map_append, List.map_cons, List.nodup_middle, List.nodup_cons, ← List.map_append] at hs
    exact fun x hx hslot => hs.1 (List.mem_map.mpr ⟨x, hx, hslot⟩)
  have hkeep : ∀ l : List Entry, (∀ x ∈ l, x ∈ older ++ younger) →
      (l.filter fun x => decide (x.slot ≠ e.slot)) = l := fun l hl =>
    List.filter_eq_self.mpr fun x hx => decide_eq_true (hne x (hl x hx))
  rw [h, List.filter_append, List.filter_cons_of_neg (by simp),
    hkeep older fun x hx => List.mem_append_left _ hx,
    hkeep younger fun x hx => List.mem_append_right _ hx]

theorem roomFor_reclaimed {s : State} {p : Port} (hfull : ¬ reserveAllows s p)
    {older younger : List Entry} {e : Entry} (ht : s.table = older ++ e :: younger)
    (hp : e.port = p) (hleft : e.leftover = true)
    (holder : ∀ x ∈ older, x.port = p → x.leftover = false) (hs : slotsDistinct s) :
    RoomFor s p e.slot (older ++ younger) (s.counters.suppressed e.readData) := by
  refine ⟨?_⟩
  rw [makeRoom_reclaims (s := passHeader s p) (by rw [admits_passHeader, admits_eq_false_iff]; exact hfull) ht hp hleft
    holder, passHeader_with, with_dropEntry, filter_slot_ne hs ht]

/-- A FETCH, PUT_SYNC or CLAIM for which there is no room is answered AGAIN and counted (R43). -/
theorem freshOf_noRoom {s : State} {c : Instr} {p : Port} {tag : Byte} {addr : Addr}
    (hc : refusable c = some (p, tag, addr)) {k : Purpose} (hk : purposeOf c = some k) {m : EntryKind}
    (hm : matchedKind c = some m) {w : WindowId} {place : Place}
    (hgate : gate s p k addr = .pass w place) (hclaims : m = .claim → claimsAlready s p = false)
    (hroom : makeRoom (passHeader s p) p = none) :
    freshOf c (passHeader s p) =
      s.setPort p (((s.port p).headerPassed.counted .full 1).answered (.again tag)) := by
  have hagain : againFull (passHeader s p) p tag =
      s.setPort p (((s.port p).headerPassed.counted .full 1).answered (.again tag)) := by
    rw [passHeader_with, with_againFull]
    rfl
  rw [← hagain]
  cases c with
  | fetch q tag' addr' len =>
    obtain ⟨rfl, rfl, rfl⟩ : q = p ∧ tag' = tag ∧ addr' = addr := by simpa [refusable] using hc
    cases hk
    simp only [freshOf, fetchFresh, gate_passHeader, hgate, admitRequest_none hroom]
  | putSync q tag' addr' len data =>
    obtain ⟨rfl, rfl, rfl⟩ : q = p ∧ tag' = tag ∧ addr' = addr := by simpa [refusable] using hc
    cases hk
    simp only [freshOf, putSyncFresh, gate_passHeader, hgate, admitRequest_none hroom]
  | claim q tag' addr' len =>
    obtain ⟨rfl, rfl, rfl⟩ : q = p ∧ tag' = tag ∧ addr' = addr := by simpa [refusable] using hc
    cases hk
    cases hm
    simp only [freshOf, claimFresh, gate_passHeader, hgate, claimsAlready_passHeader, hclaims rfl,
      Bool.false_eq_true, if_false, admitRequest_none hroom]
  | _ => cases hm

/-- Settles O21: without a leftover to reclaim the request leaves a count behind; with one its entry takes
the leftover's number, at the young end. -/
theorem noRoomReclaimsOrCountsFull : Obligations.NoRoomReclaimsOrCountsFull := by
  unfold Obligations.NoRoomReclaimsOrCountsFull
  intro s c k m p tag addr w place hjudges hactive hformed hgood hc hk hm hfresh hsingle hw hplace
    hfull u
  obtain ⟨hoff, hfault⟩ := mode_ne_of_active hactive
  have hgate : gate s p k addr = .pass w place := gate_pass hactive hw hplace
  have hclaims : m = .claim → claimsAlready s p = false := by
    intro hmc
    obtain ⟨hhold, hnone⟩ := hsingle hmc
    rw [← Bool.not_eq_true, claimsAlready_iff]
    exact not_or.mpr ⟨not_not.mpr hhold, fun ⟨e, he, h⟩ => hnone e he h⟩
  have hexec := Presented.fresh ⟨hjudges, hoff, hfault, hformed, hgood, hc⟩ hk
    (fun m' hm' => by cases hm.symm.trans hm'; exact hfresh)
  refine ⟨fun hleft => ?_, ?_⟩
  · refine hexec.trans (congrArg _ (freshOf_noRoom hc hk hm hgate hclaims (makeRoom_none ?_ hleft)))
    rw [admits_passHeader, admits_eq_false_iff]
    exact hfull
  · intro older e younger ht hp hleft holder hs entry created
    have hroom := roomFor_reclaimed hfull ht hp hleft holder hs
    refine ⟨fun len heq => ?_, fun len data heq => ?_, fun len heq => ?_⟩
    · subst heq
      cases hk
      cases hm
      refine hexec.trans (congrArg _ ((fetchFresh_created hgate hroom).trans ?_))
      rw [newEntry_eq]
      rfl
    · subst heq
      cases hk
      cases hm
      refine hexec.trans (congrArg _ ((putSyncFresh_created hgate hroom data).trans ?_))
      rw [newEntry_eq]
      rfl
    · subst heq
      cases hk
      cases hm
      refine hexec.trans (congrArg _ ((claimFresh_created hgate (hclaims rfl) hroom).trans ?_))
      rw [newEntry_eq, reply_eq]
      rfl

/-! ### PUT (R41) -/

/-- Settles O17: queue full, held back, or taken, in the order of the last step. -/
theorem putIsTakenOrTurnedAway : Obligations.PutIsTakenOrTurnedAway := by
  unfold Obligations.PutIsTakenOrTurnedAway
  intro s p tag addr len data w place hjudges hactive hgood hsize hw hplace u range heldBack words
  obtain ⟨hoff, hfault⟩ := mode_ne_of_active hactive
  have hformed : WellFormed (.put p tag addr len data) = true := beq_iff_eq.mpr hsize
  have hexec := Presented.put ⟨hjudges, hoff, hfault, hformed, hgood, rfl⟩
  have hgate : gate (passHeader s p) p .write addr = .pass w place := by
    rw [gate_passHeader]
    exact gate_pass hactive hw hplace
  have hfull : queueFull (passHeader s p) p = decide (8 ≤ (s.port p).queue.length) := by
    rw [queueFull, passHeader_field s p p (·.queue) fun _ => rfl]
  have hheld : putHeldBack (passHeader s p) p range = true ↔ heldBack := by
    rw [putHeldBack_iff]
    have hholds : ∀ q, ((passHeader s p).port q).hold = (s.port q).hold := fun q =>
      passHeader_field s p q (·.hold) fun _ => rfl
    simp only [foreignHoldMeets, fences, hholds, passHeader_table]
    rfl
  rw [hexec]
  refine ⟨fun hlong => congrArg _ ?_, fun hshort hback => congrArg _ ?_, fun hshort hfree => congrArg _ ?_⟩
  · simp only [putFresh, hgate]
    rw [hfull, if_pos (decide_eq_true hlong), passHeader_with, with_againFull]
    rfl
  · simp only [putFresh, hgate]
    rw [hfull, if_neg (by simpa using hshort), if_pos (hheld.mpr hback), passHeader_with, with_reply]
    rfl
  · simp only [putFresh, hgate]
    rw [hfull, if_neg (by simpa using hshort), if_neg (fun h => hfree (hheld.mp h)), heldWordsOf_eq,
      passHeader_with]
    unfold enqueuePut
    rw [with_port, with_setPort, with_noteHostParity, with_reply]
    rfl

end Sys2Proof.Machine
end

section
/-! PROOF. Matched requests (R8 to R12), DROP (R34, R35), garbled frames (R154, R157), frames under resets
(R30, R160), the link events (R153), and the words of a DATA answer (R62). -/

set_option Elab.async false

namespace Sys2Proof.Machine

/-! ### A drain test at the end of an exchange -/

/-- A unit whose drain was tested before its last answer is as a test of the state after it says. -/
theorem with_drained (s : State) (p : Port) (t : List Entry) (c : DeviceCounters) {u v : PortUnit}
    (hqueue : v.queue = u.queue) (hhold : v.hold = u.hold) (m : PortMode) :
    (s.with p t c { v with mode := drainTested (s.with p t c u) p m }).port p =
      { v with
        mode := drainTested (s.with p t c { v with mode := drainTested (s.with p t c u) p m }) p m } := by
  have hsame : ∀ x, drainTested (s.with p t c { v with mode := x }) p m =
      drainTested (s.with p t c u) p m := fun x =>
    drainTested_with s p t c c (u := u) (v := { v with mode := x }) hqueue hhold m
  rw [hsame, with_port]

/-! ### The handover of words (R11, R12) -/

/-- What the handover of the first `n` words leaves of the table and of the count of suppressed marks. -/
theorem keepRest_with {s : State} {p : Port} {u : PortUnit} {e : Entry} (he : e ∈ s.table)
    (hs : slotsDistinct s) (n : Nat) :
    ∃ t c, keepRest (s.with p s.table s.counters u) e n = s.with p t c u ∧
      (e.readData.drop n = [] →
        t = (s.table.filter fun x => decide (x.slot ≠ e.slot)) ∧ c = s.counters) ∧
      (e.readData.drop n ≠ [] → fetchKeyHeld s e.port (addWords e.addr n) = true →
        t = (s.table.filter fun x => decide (x.slot ≠ e.slot)) ∧
          c = s.counters.suppressed (e.readData.drop n)) ∧
      (e.readData.drop n ≠ [] → fetchKeyHeld s e.port (addWords e.addr n) = false →
        c = s.counters ∧
          t = s.table.map fun x => if x.slot = e.slot then e.restAfter s e n else x) := by
  have hheld : fetchKeyHeld (s.with p s.table s.counters u) e.port (addWords e.addr n) =
      fetchKeyHeld s e.port (addWords e.addr n) := rfl
  unfold keepRest
  simp only [hheld]
  by_cases hempty : e.readData.drop n = []
  · rw [if_pos (List.isEmpty_iff.mpr hempty)]
    exact ⟨_, _, with_freeEntry s p _ _ _ _, fun _ => ⟨rfl, rfl⟩, absurd hempty, absurd hempty⟩
  · rw [if_neg (by rw [List.isEmpty_iff]; exact hempty)]
    cases hkey : fetchKeyHeld s e.port (addWords e.addr n) with
    | true =>
      rw [if_pos rfl, with_freeEntry, with_suppress]
      exact ⟨_, _, rfl, fun h => absurd h hempty, fun _ _ => ⟨rfl, rfl⟩, fun _ => Bool.noConfusion⟩
    | false =>
      rw [if_neg Bool.false_ne_true, with_updateEntry]
      refine ⟨_, _, rfl, fun h => absurd h hempty, fun _ => Bool.noConfusion, fun _ _ => ⟨rfl, ?_⟩⟩
      exact map_at_slot hs he fun x => x.restAfter s e n

/-- A READY FETCH that the request agrees with is handed over (R10). -/
theorem fetchMatched_ready {s : State} {p : Port} {tag : Byte} {addr : Addr} {len : Byte} {e : Entry}
    (hready : e.state = .ready) (hagrees : agreesWith (.fetch p tag addr len) e) :
    fetchMatched s p tag addr len e = handOver s p tag e len.toNat := by
  unfold fetchMatched
  by_cases hleft : e.leftover = true
  · rw [if_pos hleft]
  · have hlength : e.length = len.toNat := hagrees.resolve_left hleft
    rw [if_neg hleft, if_neg (not_not.mpr hlength), if_pos hready, hlength]

/-- Settles O18: the delivery changes the port's unit, and the entry becomes what `keepRest_with` says. -/
theorem fetchDeliversReadyWords : Obligations.FetchDeliversReadyWords := by
  unfold Obligations.FetchDeliversReadyWords
  intro s p tag addr len e hjudges hoff hfault hgood hkeys he hkey hlive hready hagrees words rest next
    without taken
  obtain ⟨hport, hkind, haddr⟩ := id hkey
  have hexec := (Presented.decided ⟨hjudges, hoff, hfault, rfl, hgood, rfl⟩ (m := .fetch) rfl).2.2 e
    (matchKey_entry hkeys he hkey hlive)
  obtain ⟨t, c, hkeep, hnone, htaken, hleft⟩ :=
    keepRest_with (p := p) (u := (s.port p).headerPassed) he hkeys.1 len.toNat
  have hheld : fetchKeyHeld s e.port (addWords e.addr len.toNat) = true ↔ taken := by
    rw [fetchKeyHeld_iff, hport, haddr]
  have hdelivered := delivered_frame (s.port p).headerPassed addr words
  have hstate : matchedOf (.fetch p tag addr len) e (passHeader s p) =
      s.with p t c
        { ((s.port p).headerPassed.delivered addr words).answered (.data tag words) with
          mode := drainTested
            (s.with p t c
              (((s.port p).headerPassed.delivered addr words).answered (.data tag words)))
            p (s.port p).mode } := by
    refine (fetchMatched_ready hready hagrees).trans ?_
    rw [handOver, passHeader_with, hkeep, haddr, with_deliver, with_settleDrain]
    congr 2
    exact congrArg (drainTested _ p) hdelivered.2.2
  refine ⟨_, hexec.trans (congrArg _ hstate), with_drained s p t c rfl rfl _, hnone,
    fun hne htake => htaken hne (hheld.mpr htake), fun hne hfree => ?_, ?_⟩
  · obtain ⟨hcounters, htable⟩ := hleft hne (Bool.eq_false_iff.mpr fun h => hfree (hheld.mp h))
    refine ⟨hcounters, htable.trans ?_⟩
    rw [show next = addWords e.addr len.toNat from congrArg (addWords · len.toNat) haddr.symm]
    rfl
  · rw [with_port]
    rfl

/-! ### Comparison with an entry (R8, R10) -/

/-- A request that agrees with an entry that is not handed over is answered AGAIN, and one that does not
agree DENY MISMATCH. -/
theorem matchedOf_kept {c : Instr} {p : Port} {tag : Byte} {addr : Addr}
    (hc : refusable c = some (p, tag, addr)) {m : EntryKind} (hm : matchedKind c = some m) (e : Entry)
    (s : State) :
    (¬ agreesWith c e → matchedOf c e s = deny s p tag addr .mismatch) ∧
      (agreesWith c e → e.leftover = false → e.state ≠ .ready →
        matchedOf c e s = reply s p (.again tag)) := by
  cases c with
  | fetch q tag' addr' len =>
    obtain ⟨rfl, rfl, rfl⟩ : q = p ∧ tag' = tag ∧ addr' = addr := by simpa [refusable] using hc
    refine ⟨fun hnot => ?_, fun hagrees hleft hstate => ?_⟩
    · obtain ⟨hleft, hlength⟩ := not_or.mp hnot
      exact (if_neg hleft).trans (if_pos hlength)
    · have hleft : ¬ e.leftover = true := by rw [hleft]; decide
      exact (if_neg hleft).trans ((if_neg (not_not.mpr (hagrees.resolve_left hleft))).trans
        (if_neg hstate))
  | putSync q tag' addr' len data =>
    obtain ⟨rfl, rfl, rfl⟩ : q = p ∧ tag' = tag ∧ addr' = addr := by simpa [refusable] using hc
    have hiff : (e.length ≠ len.toNat ∨ ¬ dataAgrees e.writeData data = true) ↔
        ¬ agreesWith (.putSync q tag' addr' len data) e := by
      rw [dataAgrees_iff, ← not_and_or]
      rfl
    exact ⟨fun hnot => if_pos (hiff.mpr hnot), fun hagrees _ hstate =>
      (if_neg fun h => hiff.mp h hagrees).trans (if_neg hstate)⟩
  | claim q tag' addr' len =>
    obtain ⟨rfl, rfl, rfl⟩ : q = p ∧ tag' = tag ∧ addr' = addr := by simpa [refusable] using hc
    exact ⟨fun hnot => if_pos hnot, fun hagrees _ hstate =>
      (if_neg (not_not.mpr hagrees)).trans (if_neg hstate)⟩
  | _ => cases hm

/-- Settles O20: an orphan's key and an entry in progress answer AGAIN, a request that does not agree
MISMATCH. -/
theorem matchedRequestsLeaveTheEntry : Obligations.MatchedRequestsLeaveTheEntry := by
  unfold Obligations.MatchedRequestsLeaveTheEntry
  intro s c k p tag addr e hjudges hoff hfault hformed hgood hc hm hkeys he hkey
  obtain ⟨-, horphan, hentry⟩ :=
    Presented.decided ⟨hjudges, hoff, hfault, hformed, hgood, hc⟩ hm
  have hagain : reply (passHeader s p) p (.again tag) =
      s.setPort p ((s.port p).headerPassed.answered (.again tag)) := by
    rw [passHeader_with, with_reply]
    rfl
  obtain ⟨hdiffers, hkept⟩ := matchedOf_kept hc hm e (passHeader s p)
  refine ⟨fun horphans => ?_, fun hlive hagrees hleft hstate => ?_, fun hlive hnot => ?_⟩
  · rw [horphan (matchKey_orphan he hkey horphans), hagain]
  · rw [hentry e (matchKey_entry hkeys he hkey hlive), hkept hagrees hleft hstate, hagain]
  · rw [hentry e (matchKey_entry hkeys he hkey hlive), hdiffers hnot, deny_passHeader]

/-- The entry of a result that is collected is freed, the drain is tested, and the answer sent. -/
theorem settleDrain_freeEntry (s : State) (p : Port) (e : Entry) :
    settleDrain (freeEntry (passHeader s p) e.slot) p =
      s.with p (s.table.filter fun x => decide (x.slot ≠ e.slot)) s.counters
        { (s.port p).headerPassed with
          mode := drainTested
            (s.with p (s.table.filter fun x => decide (x.slot ≠ e.slot)) s.counters
              (s.port p).headerPassed) p (s.port p).mode } := by
  rw [passHeader_with, with_freeEntry, with_settleDrain]
  rfl

theorem putSyncMatched_ready {s : State} {p : Port} {tag : Byte} {addr : Addr} {len : Byte}
    {data : List LinkWord} {e : Entry} (hready : e.state = .ready)
    (hagrees : agreesWith (.putSync p tag addr len data) e) :
    putSyncMatched s p tag addr len data e =
      reply (settleDrain (freeEntry s e.slot) p) p (.done tag (e.result == some true)) := by
  obtain ⟨hlength, hdata⟩ := hagrees
  refine (if_neg (not_or.mpr ⟨not_not.mpr hlength, not_not.mpr ?_⟩)).trans (if_pos hready)
  exact (dataAgrees_iff _ _).mpr hdata

theorem claimMatched_ready {s : State} {p : Port} {tag : Byte} {addr : Addr} {len : Byte} {e : Entry}
    (hready : e.state = .ready) (hagrees : agreesWith (.claim p tag addr len) e) :
    claimMatched s p tag addr len e =
      if e.result = some true then
        reply (settleDrain (freeEntry s e.slot) p) p (.done tag false)
      else deny (settleDrain (freeEntry s e.slot) p) p tag addr .late :=
  (if_neg (not_not.mpr hagrees)).trans (if_pos hready)

/-- Settles O19: the result is answered, the entry freed, and the hold slot left. -/
theorem resultsAreCollected : Obligations.ResultsAreCollected := by
  unfold Obligations.ResultsAreCollected
  intro s c k p tag addr e hjudges hoff hfault hformed hgood hc hm hfetch hkeys he hkey hlive hready
    hagrees
  have hexec := (Presented.decided ⟨hjudges, hoff, hfault, hformed, hgood, hc⟩ hm).2.2 e
    (matchKey_entry hkeys he hkey hlive)
  have hframe : ∀ v : PortUnit,
      s.with p (s.table.filter fun x => decide (x.slot ≠ e.slot)) s.counters v =
        { s with
          table := s.table.filter fun x => decide (x.slot ≠ e.slot)
          ports := s.ports.set p
            ((s.with p (s.table.filter fun x => decide (x.slot ≠ e.slot)) s.counters v).port p) } := by
    intro v
    rw [with_port]
    rfl
  have hdrained := fun (v : PortUnit) (hqueue : v.queue = (s.port p).headerPassed.queue)
      (hhold : v.hold = (s.port p).headerPassed.hold) =>
    with_drained s p (s.table.filter fun x => decide (x.slot ≠ e.slot)) s.counters hqueue hhold
      (s.port p).mode
  cases c with
  | putSync q tag' addr' len data =>
    obtain ⟨rfl, rfl, rfl⟩ : q = p ∧ tag' = tag ∧ addr' = addr := by simpa [refusable] using hc
    cases hm
    have hstate := putSyncMatched_ready (s := passHeader s q) hready hagrees
    rw [settleDrain_freeEntry, with_reply] at hstate
    exact ⟨_, hexec.trans (congrArg _ hstate), rfl, fun _ => hdrained ((s.port q).headerPassed.answered _) rfl rfl,
      EntryKind.noConfusion, EntryKind.noConfusion, hframe _⟩
  | claim q tag' addr' len =>
    obtain ⟨rfl, rfl, rfl⟩ : q = p ∧ tag' = tag ∧ addr' = addr := by simpa [refusable] using hc
    cases hm
    have hstate := claimMatched_ready (s := passHeader s q) hready hagrees
    rw [settleDrain_freeEntry, with_reply, with_deny] at hstate
    by_cases hgranted : e.result = some true
    · rw [if_pos hgranted] at hstate
      exact ⟨_, hexec.trans (congrArg _ hstate), rfl, EntryKind.noConfusion,
        fun _ _ => hdrained ((s.port q).headerPassed.answered _) rfl rfl,
        fun _ h => absurd hgranted h, hframe _⟩
    · rw [if_neg hgranted] at hstate
      exact ⟨_, hexec.trans (congrArg _ hstate), rfl, EntryKind.noConfusion,
        fun _ h => absurd h hgranted, fun _ _ => hdrained ((s.port q).refused _ _ _) rfl rfl, hframe _⟩
  | fetch => cases hm; exact absurd rfl hfetch
  | _ => cases hm

end Sys2Proof.Machine
end

section
/-! PROOF. DROP (R34, R35), garbled frames (R154, R157), frames under resets (R30, R160), the link events
(R153), and the words of a DATA answer (R62). -/

set_option Elab.async false

namespace Sys2Proof.Machine

/-! ### DROP -/

theorem decideDrop_held {s : State} {p : Port} {tag : Byte} {addr : Addr} {h : Hold}
    (hh : (s.port p).hold = some h) (hbase : h.base = addr) :
    decideDrop s p tag addr = reply (settleDrain (releaseHold s p) p) p (.done tag false) := by
  simp only [decideDrop, hh, hbase, beq_self_eq_true, if_true]

theorem decideDrop_refused {s : State} {p : Port} {tag : Byte} {addr : Addr}
    (h : ∀ x, (s.port p).hold = some x → x.base ≠ addr) :
    decideDrop s p tag addr =
      deny s p tag addr (if (s.port p).lastHoldExpired then .late else .notHeld) := by
  unfold decideDrop
  cases hh : (s.port p).hold with
  | none => simp only [Bool.false_eq_true, if_false]; split <;> rfl
  | some x =>
    have hne : (x.base == addr) = false := beq_eq_false_iff_ne.mpr (h x hh)
    simp only [hne, Bool.false_eq_true, if_false]
    split <;> rfl

/-- A DROP past the form step is decided by the hold slot. -/
theorem judgeDrop_formed {s : State} {p : Port} {tag : Byte} {addr : Addr}
    (hoff : (s.port p).mode ≠ .off) (hfault : (s.port p).mode ≠ .fault)
    (hform : addr.toNat % 64 = 0) :
    judgeDrop p tag addr s = decideDrop (passHeader s p) p tag addr := by
  have hgood : dropFormOk addr = true := (dropFormOk_iff addr).mpr (not_not.mpr hform)
  simp only [judgeDrop, refusesAll_eq_false hoff hfault, hgood, Bool.not_true, Bool.false_eq_true,
    if_false]

/-- A drain test and an answer after it leave one port's unit changed. -/
theorem reply_settleDrain (s : State) (p : Port) (a : Answer) :
    reply (settleDrain s p) p a =
      s.setPort p
        { (s.port p).answered a with mode := drainTested s p (s.port p).mode } := by
  rw [settleDrain_eq, reply_eq, State.setPort_port_same, State.setPort_setPort]
  rfl

/-- Settles O22: at the hold's base the release, the grants and the drain test; otherwise a refusal. -/
theorem dropReleasesTheHold : Obligations.DropReleasesTheHold := by
  unfold Obligations.DropReleasesTheHold
  intro s p tag addr len hjudges hoff hfault hform
  have hexec : exec (.drop p tag addr len) s = .next (decideDrop (passHeader s p) p tag addr) :=
    (exec_judged hjudges rfl rfl).trans (congrArg _ (judgeDrop_formed hoff hfault hform))
  have hholds : ((passHeader s p).port p).hold = (s.port p).hold :=
    passHeader_field s p p (·.hold) fun _ => rfl
  refine ⟨?_, fun hnone => ?_⟩
  · intro h hh hbase hclaim released granted
    have hreleased : releaseHold (passHeader s p) p = granted := by
      rw [releaseHold_eq, passHeader_with, with_port]
      refine congrArg evaluateGrants ?_
      unfold State.with
      simp only [PerPort.set_set]
      rfl
    have hclear : ∀ c ∈ released.table, c.port = p → c.kind = .claim → c.state ≠ .queued := by
      intro c hc hp hk hq
      obtain ⟨hqueued, -⟩ := (hclaim.2 p).2 c (List.mem_filter.mp hc).1 hp hk
      rw [hqueued hq] at hh
      cases hh
    have hunit : granted.port p = { (s.port p).headerPassed with hold := none } :=
      (evaluateGrants_port hclear).trans (PerPort.get_set_same _ _ _)
    have hstate : decideDrop (passHeader s p) p tag addr =
        granted.setPort p
          { (granted.port p).answered (.done tag false) with
            mode := drainTested granted p (granted.port p).mode } := by
      rw [decideDrop_held (hholds.trans hh) hbase, hreleased, reply_settleDrain]
    refine ⟨_, hexec.trans (congrArg _ hstate), ?_, ?_⟩
    · rw [State.setPort_port_same]
      have hsame := drainTested_congr (s := granted)
        (t := granted.setPort p
          { (granted.port p).answered (.done tag false) with
            mode := drainTested granted p (granted.port p).mode }) (p := p) (granted.port p).mode
        rfl (by rw [State.setPort_port_same]; rfl) (by rw [State.setPort_port_same]; rfl)
      rw [hunit] at hsame ⊢
      exact congrArg
        (fun m => { ({ (s.port p).headerPassed with hold := none } : PortUnit).answered
          (.done tag false) with mode := m }) hsame.symm
    · rw [State.setPort_port_same]
      rfl
  · rw [hexec, decideDrop_refused (fun x hx => hnone x (hholds.symm.trans hx)), deny_passHeader,
      passHeader_field s p p (·.lastHoldExpired) fun _ => rfl]

/-! ### Garbled frames and resets -/

section

variable {s : State} {p : Port} (tag : Byte) (judge : State → State)

/-- A frame under a reset input, or held off when it began, is not taken (R160, R186). -/
theorem endFrame_ignored (h : s.powerOnAsserted = true ∨ (s.port p).resetLine = true ∨
    (s.port p).receiving = some .heldOff) :
    endFrame s p tag judge = s.setPort p { s.port p with receiving := none } := by
  have htaking : taking s p = .ignored := if_pos h
  simp only [endFrame, htaking]

variable (hpower : s.powerOnAsserted = false) (hline : (s.port p).resetLine = false)
  (hheld : (s.port p).receiving ≠ some .heldOff)

include hpower hline hheld

/-- During a warm reset a frame is answered DENY PORT_OFF (R30). -/
theorem endFrame_warm (hwarm : s.warm ≠ .idle) :
    endFrame s p tag judge = s.setPort p ((s.port p).answered (.deny tag .portOff)) := by
  have htaking : taking s p = .warm := by simp [taking, hpower, hline, hheld, hwarm]
  simp only [endFrame, htaking, reply_eq]

end

/-- A garbled or overlapping frame is taken as garbled (R29, R153). -/
theorem exec_garbled {s : State} {c : Instr} {p : Port} {tag : Byte} (hpower : s.powerOnAsserted = false)
    (hline : (s.port p).resetLine = false) (hwarm : s.warm = .idle)
    (hframe : frameOf c = some (p, tag))
    (h : c = .garbledFrame p tag ∧ (s.port p).receiving ≠ some .heldOff ∨
      (s.port p).receiving = some .overlapping) :
    exec c s = .next (takeGarbled s p tag) := by
  by_cases hover : (s.port p).receiving = some .overlapping
  · obtain ⟨judge, hexec⟩ := exec_frame hframe s
    have htaking : taking s p = .garbled := by simp [taking, hpower, hline, hwarm, hover]
    rw [hexec, endFrame, htaking]
  · obtain ⟨rfl, hheld⟩ := h.resolve_right hover
    have htaking : taking s p = .judged := by simp [taking, hpower, hline, hwarm, hover, hheld]
    exact congrArg Host.Outcome.next (by rw [endFrame, htaking])

theorem portFaultBit_eq (p : Port) : portFaultBit p = BitVec.ofNat 8 (2 ^ (p.val + 1)) := by
  fin_cases p <;> rfl

section

variable {s : State} {p : Port}

/-- A garbled frame below the fourth advances the count (R154). -/
theorem takeGarbled_counted (tag : Byte) (h : (s.port p).garbleCount < 3) :
    takeGarbled s p tag =
      s.setPort p
        (({ s.port p with garbleCount := (s.port p).garbleCount + 1 } : PortUnit).answered
          (.deny tag .garbled)) := by
  unfold takeGarbled
  dsimp only
  rw [if_pos (by omega), reply_eq, State.setPort_port_same, State.setPort_setPort]

/-- At the fourth the count returns to 0, and a port in FAULT stays there (R157). -/
theorem takeGarbled_faulted (tag : Byte) (h : 3 ≤ (s.port p).garbleCount)
    (hfault : (s.port p).mode = .fault) :
    takeGarbled s p tag =
      s.setPort p (({ s.port p with garbleCount := 0 } : PortUnit).answered (.deny tag .garbled)) := by
  unfold takeGarbled
  dsimp only
  rw [if_neg (by omega), if_pos hfault, reply_eq, State.setPort_port_same, State.setPort_setPort]

/-- At the fourth any other port enters FAULT with its cleanup (R157). -/
theorem takeGarbled_fourth (tag : Byte) (h : 3 ≤ (s.port p).garbleCount)
    (hfault : (s.port p).mode ≠ .fault) :
    takeGarbled s p tag = reply (enterFault s p) p (.deny tag .garbled) := by
  unfold takeGarbled
  dsimp only
  rw [if_neg (by omega), if_neg hfault]

end

/-- Settles O23: below the fourth the count, at the fourth FAULT with its cleanup. -/
theorem garbledFramesLeadToFault : Obligations.GarbledFramesLeadToFault := by
  unfold Obligations.GarbledFramesLeadToFault
  intro s c p tag hpower hline hwarm hframe h u denied
  rw [exec_garbled hpower hline hwarm hframe h]
  refine ⟨fun hlow => congrArg _ (takeGarbled_counted tag hlow),
    fun hhigh hfault => congrArg _ (takeGarbled_faulted tag hhigh hfault), ?_⟩
  intro hhigh hfault cleaned granted
  refine congrArg _ ((takeGarbled_fourth tag hhigh hfault).trans ?_)
  have hunit : (enterFault s p).port p = cleaned.port p := portCleanup_port _ p
  have hflags : granted.deviceFlags = s.deviceFlags := evaluateGrants_deviceFlags _
  have hfault : enterFault s p =
      { granted with deviceFlags := s.deviceFlags ||| BitVec.ofNat 8 (2 ^ (p.val + 1)) } := by
    rw [← hflags, ← portFaultBit_eq]
    exact congrArg (setDeviceFlag · (portFaultBit p)) (portCleanup_eq _ p)
  rw [reply_eq, hunit, hfault]
  rfl

/-- Settles O24: under a reset input the frame leaves no trace, during a warm reset the one answer. -/
theorem framesUnderResets : Obligations.FramesUnderResets := by
  unfold Obligations.FramesUnderResets
  intro s c p tag hframe
  obtain ⟨judge, hexec⟩ := exec_frame hframe s
  rw [hexec]
  exact ⟨fun h => congrArg _ (endFrame_ignored tag judge h), fun hpower hline hheld hwarm =>
    congrArg _ (endFrame_warm tag judge hpower hline hheld hwarm)⟩

/-! ### The link events -/

/-- Settles O25: the mark of a frame's beginning tells how it found the link. -/
theorem linkEventsMarkExchanges : Obligations.LinkEventsMarkExchanges := by
  unfold Obligations.LinkEventsMarkExchanges
  intro s p
  refine ⟨?_, fun a rest h => ?_⟩
  · refine ⟨if s.powerOnAsserted = true ∨ (s.port p).resetLine = true then .heldOff
        else if (s.port p).answers ≠ [] ∧ ¬ (s.port p).freshLink = true then .overlapping
        else .clean, rfl, ?_, ?_⟩
    · split_ifs with hreset <;> simp [hreset]
    · split_ifs with hreset hover
      · refine iff_of_false not_false fun ⟨hp, hl, _, _⟩ => ?_
        rw [hp, hl] at hreset
        exact hreset.elim Bool.noConfusion Bool.noConfusion
      · obtain ⟨hp, hl⟩ := not_or.mp hreset
        exact iff_of_true rfl ⟨Bool.eq_false_iff.mpr hp, Bool.eq_false_iff.mpr hl, hover.1,
          Bool.eq_false_iff.mpr hover.2⟩
      · exact iff_of_false not_false fun ⟨_, _, hne, hfresh⟩ =>
          hover ⟨hne, by rw [hfresh]; decide⟩
  · change Host.Outcome.next (finishAnswer s p) = _
    rw [finishAnswer, h]
    rfl

/-! ### Delivered words -/

/-- The last answer of port `p` in the state. -/
def lastAnswer (s : State) (p : Port) : Option Answer :=
  (s.port p).answers.getLast?

theorem lastAnswer_reply (s : State) (p : Port) (a : Answer) : lastAnswer (reply s p a) p = some a := by
  rw [lastAnswer, reply_eq, State.setPort_port_same]
  exact List.getLast?_concat

theorem lastAnswer_deny (s : State) (p : Port) (tag : Byte) (addr : Addr) (r : Reason) :
    lastAnswer (deny s p tag addr r) p = some (.deny tag r) :=
  lastAnswer_reply _ p _

theorem lastAnswer_settleDrain (s : State) (p : Port) :
    lastAnswer (settleDrain s p) p = lastAnswer s p := by
  rw [lastAnswer, settleDrain_eq, State.setPort_port_same]
  rfl

theorem lastAnswer_handOver (s : State) (p : Port) (tag : Byte) (e : Entry) (n : Nat) :
    lastAnswer (handOver s p tag e n) p = some (.data tag (e.readData.take n)) := by
  rw [handOver, lastAnswer_settleDrain]
  exact lastAnswer_reply _ p _

theorem lastAnswer_admitRequest (s : State) (p : Port) (tag : Byte) (make : State → Slot → Entry)
    (created : State → State) :
    lastAnswer (admitRequest s p tag make created) p = some (.again tag) := by
  unfold admitRequest
  split <;> exact lastAnswer_reply _ p _

/-- A request that matched nothing is not answered DATA. -/
theorem lastAnswer_fetchFresh (s : State) (p : Port) (tag : Byte) (addr : Addr) (len : Byte) :
    lastAnswer (fetchFresh s p tag addr len) p = some (.again tag) ∨
      ∃ r, lastAnswer (fetchFresh s p tag addr len) p = some (.deny tag r) := by
  unfold fetchFresh
  split
  · exact .inr ⟨_, lastAnswer_deny ..⟩
  · exact .inl (lastAnswer_admitRequest ..)

/-- A FETCH answered DATA delivers the first words of a READY entry of its key (R10). -/
theorem judgeFetch_data {s : State} {p : Port} {tag : Byte} {addr : Addr} {len : Byte}
    {words : List ReadWord}
    (h : lastAnswer (judgeFetch p tag addr len s) p = some (.data tag words)) :
    ∃ e ∈ s.table, e.hasKey p .fetch addr ∧ (e.leftover = true ∨ e.state = .ready) ∧
      words = e.readData.take len.toNat := by
  have hdeny : ∀ {u : State} {r : Reason}, ¬ lastAnswer (deny u p tag addr r) p = some (.data tag words) := by
    intro u r h
    rw [lastAnswer_deny] at h
    cases h
  have hagain : ∀ {u : State}, ¬ lastAnswer (reply u p (.again tag)) p = some (.data tag words) := by
    intro u h
    rw [lastAnswer_reply] at h
    cases h
  unfold judgeFetch at h
  dsimp only at h
  split at h
  next => exact absurd h hdeny
  next =>
    split at h
    next => exact absurd h hdeny
    next =>
      split at h
      next e he =>
        obtain ⟨hmem, hkey, -⟩ := matchKey_eq_entry he
        unfold fetchMatched at h
        split_ifs at h with hleft hlength hready
        · rw [lastAnswer_handOver] at h
          cases h
          exact ⟨e, hmem, hkey, .inl hleft, rfl⟩
        · exact absurd h hdeny
        · rw [lastAnswer_handOver] at h
          cases h
          exact ⟨e, hmem, hkey, .inr hready, by rw [not_not.mp hlength]⟩
        · exact absurd h hagain
      next => exact absurd h hagain
      next =>
        obtain hagain | ⟨r, hdeny⟩ := lastAnswer_fetchFresh (passHeader s p) p tag addr len
        · rw [hagain] at h; cases h
        · rw [hdeny] at h; cases h

/-- Settles O59: the words delivered are a READY entry's, and those are the memory's (R62). -/
theorem deliveredWordsAreCurrent : Obligations.DeliveredWordsAreCurrent := by
  unfold Obligations.DeliveredWordsAreCurrent
  intro s t p tag addr len words hcoherent hjudges hexec hlast
  rw [exec_judged hjudges (c := .fetch p tag addr len) rfl rfl] at hexec
  obtain rfl := Host.Outcome.next.inj hexec
  obtain ⟨e, he, ⟨-, hkind, rfl⟩, hheld, rfl⟩ := judgeFetch_data hlast
  obtain ⟨-, hleft, hwords, -⟩ := hcoherent
  have hready : e.state = .ready := hheld.elim (fun hl => (hleft e he hl).2) id
  obtain ⟨-, hdata⟩ := hwords e he hkind hready
  refine ⟨List.length_take_le _ _, fun j w hw => ?_⟩
  obtain rfl : w = s.memory.readWord s.powerOns (e.addr.toNat + 8 * j) := by
    rw [hdata, List.getElem?_take] at hw
    split_ifs at hw
    rw [Memory.getElem?_readWords] at hw
    split_ifs at hw
    exact (Option.some.inj hw).symm
  refine ⟨fun i => Memory.readWord_get _ _ _ i, ?_⟩
  rw [Memory.readWord_poison]
  exact exists_congr fun i => StoredByte.good_eq_false_iff _

end Sys2Proof.Machine
end

section
/-! PROOF. The hold unit: an evaluation of grants examines the QUEUED CLAIMs oldest first, and a grant
leaves the answer for every other QUEUED CLAIM as it was (R81, R82); the ends of a hold (R87 to R89). -/

set_option Elab.async false

namespace Sys2Proof.Machine

/-! ### One grant -/

theorem olderThan_grant (s : State) (d : Entry) (n : Slot) :
    olderThan (grant s d) n =
      (olderThan s n).map fun e => if e.slot = d.slot then e.granted s else e := by
  unfold olderThan
  rw [grant_table, List.takeWhile_map]
  congr 2
  funext e
  dsimp only [Function.comp]
  split <;> rfl

/-- Of two entries with numbers of their own one stands before the other in the age order. -/
theorem mem_olderThan_or {s : State} (hs : slotsDistinct s) {c d : Entry} (hc : c ∈ s.table)
    (hd : d ∈ s.table) (h : c.slot ≠ d.slot) : c ∈ olderThan s d.slot ∨ d ∈ olderThan s c.slot := by
  have hpair := pairwise_slots hs
  unfold olderThan
  generalize s.table = t at *
  induction t with
  | nil => cases hc
  | cons x xs ih =>
    obtain ⟨hx, hpair⟩ := List.pairwise_cons.mp hpair
    obtain rfl | hc := List.mem_cons.mp hc
    · exact .inl (by simp [h])
    · obtain rfl | hd := List.mem_cons.mp hd
      · exact .inr (by simp [h.symm])
      · rw [List.takeWhile_cons_of_pos (by simpa using hx d hd),
          List.takeWhile_cons_of_pos (by simpa using hx c hc)]
        exact (ih hc hd hpair).imp (List.mem_cons_of_mem _) (List.mem_cons_of_mem _)

theorem barsGrant_granted (s : State) (p : Port) (a : Span) {d : Entry} (h : d.kind = .claim) :
    barsGrant p a (d.granted s) = false := by
  simp [barsGrant, Entry.granted, h]

theorem barsGrant_claim {p : Port} {a : Span} {d : Entry} (h : d.kind = .claim ∧ d.state = .queued)
    (hport : d.port ≠ p) : barsGrant p a d = false ↔ ¬ d.claimSpan.meets a := by
  simp [barsGrant, h, hport, Span.overlaps_eq_false_iff]

/-- What a grant adds to the holds is the granted span (R83). -/
theorem holds_grant {s : State} {d : Entry} (hfree : (s.port d.port).hold = none) (P : Span → Prop) :
    (∀ q h, ((grant s d).port q).hold = some h → P h.span) ↔
      (∀ q h, (s.port q).hold = some h → P h.span) ∧ P d.claimSpan := by
  constructor
  · intro hall
    refine ⟨fun q h hh => hall q h ?_, hall d.port (holdOf s d) (by rw [grant_port_same])⟩
    rwa [grant_port_ne s d]
    rintro rfl
    rw [hfree] at hh
    cases hh
  · rintro ⟨hold, hnew⟩ q h hh
    by_cases hq : q = d.port
    · subst hq
      rw [grant_port_same] at hh
      cases hh
      exact hnew
    · exact hold q h (grant_port_ne s d hq ▸ hh)

/-- A grant takes the granted claim from the entries that bar another (R81). -/
theorem older_grant {s : State} (hs : slotsDistinct s) {c d : Entry} (hd : d ∈ s.table)
    (hdq : d.kind = .claim ∧ d.state = .queued) (hport : d.port ≠ c.port) :
    (∀ e ∈ olderThan s c.slot, barsGrant c.port c.claimSpan e = false) ↔
      (∀ e ∈ olderThan (grant s d) c.slot, barsGrant c.port c.claimSpan e = false) ∧
        (d ∈ olderThan s c.slot → ¬ d.claimSpan.meets c.claimSpan) := by
  have hmem : ∀ e ∈ olderThan s c.slot, e.slot = d.slot → e = d := fun e he hslot =>
    slotsDistinct_eq hs ((List.takeWhile_sublist _).subset he) hd hslot
  rw [olderThan_grant, List.forall_mem_map]
  constructor
  · refine fun hall => ⟨fun e he => ?_, fun hold => (barsGrant_claim hdq hport).mp (hall d hold)⟩
    split
    next hslot => exact barsGrant_granted s _ _ (hmem e he hslot ▸ hdq.1)
    next => exact hall e he
  · rintro ⟨hall, hnew⟩ e he
    by_cases hslot : e.slot = d.slot
    · obtain rfl := hmem e he hslot
      exact (barsGrant_claim hdq hport).mpr (hnew he)
    · have := hall e he
      rwa [if_neg hslot] at this

/-- A grant leaves the answer for every other QUEUED CLAIM: the new hold bars a younger claim just as the
granted entry did, and an older claim does not meet it, or it had barred the grant (R81). -/
theorem grantable_grant {s : State} (hs : slotsDistinct s) {c d : Entry} (hc : c ∈ s.table)
    (hd : d ∈ s.table) (hcq : c.kind = .claim ∧ c.state = .queued)
    (hdq : d.kind = .claim ∧ d.state = .queued) (hport : c.port ≠ d.port)
    (hfree : (s.port d.port).hold = none) (hgrant : grantable s d = true) :
    grantable (grant s d) c = grantable s c := by
  have hslot : c.slot ≠ d.slot := fun h => hport (congrArg Entry.port (slotsDistinct_eq hs hc hd h))
  have hput : ∀ q, ((grant s d).port q).queue = (s.port q).queue := by
    intro q
    by_cases hq : q = d.port
    · subst hq
      rw [grant_port_same]
    · rw [grant_port_ne s d hq]
  have hapart : d ∉ olderThan s c.slot → ¬ d.claimSpan.meets c.claimSpan := by
    intro hyoung
    have hold := (mem_olderThan_or hs hc hd hslot).resolve_right hyoung
    rw [Span.meets_comm]
    exact (barsGrant_claim hcq hport).mp (((grantable_iff s d).mp hgrant).2.1 c hold)
  rw [Bool.eq_iff_iff, grantable_iff, grantable_iff, older_grant hs hd hdq (Ne.symm hport),
    holds_grant hfree fun a => ¬ a.meets c.claimSpan]
  simp only [hput]
  change _ ∧ _ ∧ _ ∧ (∀ a, s.bus = some (.access a) → _) ↔ _
  tauto

/-! ### An evaluation of grants -/

/-- What an evaluation starts from: the claims to examine are QUEUED CLAIMs of ports without a hold, and no
two QUEUED CLAIMs share a port (R84). -/
structure Examinable (s : State) (l : List Entry) : Prop where
  slots : slotsDistinct s
  nodup : l.Nodup
  pending : ∀ c ∈ l, c ∈ s.table ∧ (c.kind = .claim ∧ c.state = .queued) ∧ (s.port c.port).hold = none
  alone : ∀ c ∈ s.table, ∀ d ∈ s.table, c.kind = .claim ∧ c.state = .queued →
    d.kind = .claim ∧ d.state = .queued → c ≠ d → c.port ≠ d.port

/-- What the examination of the claims `l` in state `s` leaves in state `t` (R82, R83). -/
structure Examined (s : State) (l : List Entry) (t : State) : Prop where
  table : t.table = s.table.map fun e => if e ∈ l ∧ grantable s e = true then e.granted s else e
  held : ∀ c ∈ l, grantable s c = true →
    t.port c.port = { s.port c.port with hold := some (holdOf s c), lastHoldExpired := false }
  kept : ∀ p, (∀ c ∈ l, c.port = p → grantable s c = false) → t.port p = s.port p
  rest : ∀ c ∈ s.table, c.kind = .claim ∧ c.state = .queued → (c ∈ l → grantable s c = false) →
    grantable t c = grantable s c

theorem Examined.nil (s : State) : Examined s [] s where
  table := by simp
  held := by simp
  kept := by simp
  rest := by simp

section

variable {s : State} {d : Entry} {l : List Entry}

/-- A claim that is not grantable is passed over. -/
theorem Examined.skip {t : State} (h : Examined s l t) (hd : grantable s d = false) :
    Examined s (d :: l) t where
  table := by
    rw [h.table]
    refine List.map_congr_left fun e _ => ?_
    by_cases he : e = d
    · subst he; simp [hd]
    · simp [he]
  held := by
    intro c hc hgrant
    obtain rfl | hc := List.mem_cons.mp hc
    · exact absurd (hgrant.symm.trans hd) Bool.noConfusion
    · exact h.held c hc hgrant
  kept := fun p hall => h.kept p fun c hc => hall c (List.mem_cons_of_mem _ hc)
  rest := fun c hc hq hno => h.rest c hc hq fun hcl => hno (List.mem_cons_of_mem _ hcl)

theorem mem_grant {c : Entry} (hc : c ∈ s.table) (h : c.slot ≠ d.slot) : c ∈ (grant s d).table := by
  rw [grant_table]
  exact List.mem_map.mpr ⟨c, hc, if_neg h⟩

/-- A QUEUED CLAIM after a grant was one before it, and is not the granted one. -/
theorem mem_of_mem_grant {c : Entry} (hc : c ∈ (grant s d).table) (hq : c.state = .queued) :
    c ∈ s.table ∧ c.slot ≠ d.slot := by
  rw [grant_table] at hc
  obtain ⟨e, he, rfl⟩ := List.mem_map.mp hc
  split at hq
  next => cases hq
  next h => rw [if_neg h]; exact ⟨he, h⟩

theorem Examinable.apart (h : Examinable s (d :: l)) {c : Entry} (hc : c ∈ l) : c.port ≠ d.port := by
  obtain ⟨hmem, hq, -⟩ := h.pending c (List.mem_cons_of_mem _ hc)
  obtain ⟨hdmem, hdq, -⟩ := h.pending d List.mem_cons_self
  refine h.alone c hmem d hdmem hq hdq ?_
  rintro rfl
  exact (List.nodup_cons.mp h.nodup).1 hc

theorem Examinable.slot_ne (h : Examinable s (d :: l)) {c : Entry} (hc : c ∈ s.table) (hne : c ≠ d) :
    c.slot ≠ d.slot :=
  fun hslot => hne (slotsDistinct_eq h.slots hc (h.pending d List.mem_cons_self).1 hslot)

theorem Examinable.tail (h : Examinable s (d :: l)) : Examinable s l where
  slots := h.slots
  nodup := (List.nodup_cons.mp h.nodup).2
  pending := fun c hc => h.pending c (List.mem_cons_of_mem _ hc)
  alone := h.alone

theorem Examinable.grant (h : Examinable s (d :: l)) : Examinable (grant s d) l where
  slots := by
    unfold slotsDistinct
    rw [grant_slots]
    exact h.slots
  nodup := h.tail.nodup
  pending := by
    intro c hc
    obtain ⟨hmem, hq, hfree⟩ := h.tail.pending c hc
    have hport := h.apart hc
    refine ⟨mem_grant hmem (h.slot_ne hmem fun heq => hport (congrArg _ heq)), hq, ?_⟩
    rw [grant_port_ne s d hport, hfree]
  alone := by
    intro c hc x hx hcq hxq
    exact h.alone c (mem_of_mem_grant hc hcq.2).1 x (mem_of_mem_grant hx hxq.2).1 hcq hxq

/-- After the grant of a claim the others are examined with the answers they had before it. -/
theorem Examined.grant {t : State} (hs : Examinable s (d :: l)) (hgrant : grantable s d = true)
    (h : Examined (grant s d) l t) : Examined s (d :: l) t := by
  obtain ⟨hd, hdq, hfree⟩ := hs.pending d List.mem_cons_self
  have hsame : ∀ c ∈ s.table, c.kind = .claim ∧ c.state = .queued → c ≠ d →
      grantable (Machine.grant s d) c = grantable s c := fun c hc hcq hne =>
    grantable_grant hs.slots hc hd hcq hdq (hs.alone c hc d hd hcq hdq hne) hfree hgrant
  have htail : ∀ c ∈ l, grantable (Machine.grant s d) c = grantable s c := by
    intro c hc
    obtain ⟨hmem, hq, -⟩ := hs.tail.pending c hc
    exact hsame c hmem hq fun heq => hs.apart hc (congrArg _ heq)
  refine ⟨?_, ?_, ?_, ?_⟩
  · rw [h.table, grant_table, List.map_map]
    refine List.map_congr_left fun e he => ?_
    dsimp only [Function.comp]
    by_cases hed : e = d
    · subst hed
      have hnot : e.granted s ∉ l := fun hl => nomatch (hs.tail.pending _ hl).2.1.2
      simp only [↓reduceIte, hnot, false_and]
      rw [if_pos ⟨List.mem_cons_self, hgrant⟩]
    · simp only [if_neg (hs.slot_ne he hed)]
      by_cases hl : e ∈ l
      · simp only [hl, htail e hl, List.mem_cons_of_mem d hl]
        rfl
      · simp [hl, hed]
  · intro c hc hcg
    obtain rfl | hc := List.mem_cons.mp hc
    · rw [h.kept c.port fun x hx hport => absurd hport (hs.apart hx), grant_port_same]
    · rw [h.held c hc ((htail c hc).trans hcg), grant_port_ne s d (hs.apart hc)]
      rfl
  · intro p hp
    have hne : p ≠ d.port := fun heq => by simpa [hgrant] using hp d List.mem_cons_self heq.symm
    rw [h.kept p fun c hc hport => (htail c hc).trans (hp c (List.mem_cons_of_mem _ hc) hport),
      grant_port_ne s d hne]
  · intro c hc hq hno
    have hne : c ≠ d := by
      rintro rfl
      simpa [hgrant] using hno List.mem_cons_self
    rw [h.rest c (mem_grant hc (hs.slot_ne hc hne)) hq fun hcl =>
      (htail c hcl).trans (hno (List.mem_cons_of_mem _ hcl)), hsame c hc hq hne]

end

theorem foldl_grantIfPossible_examined (l : List Entry) (s : State) (h : Examinable s l) :
    Examined s l (l.foldl grantIfPossible s) := by
  induction l generalizing s with
  | nil => exact Examined.nil s
  | cons d l ih =>
    rw [List.foldl_cons]
    by_cases hgrant : grantable s d = true
    · rw [grantIfPossible, if_pos hgrant]
      exact (ih _ h.grant).grant h hgrant
    · rw [grantIfPossible, if_neg hgrant]
      exact (ih _ h.tail).skip (Bool.eq_false_iff.mpr hgrant)

theorem mem_pendingClaims {s : State} {c : Entry} :
    c ∈ pendingClaims s ↔ c ∈ s.table ∧ c.kind = .claim ∧ c.state = .queued := by
  simp [pendingClaims]

/-- The law of the claims lets an evaluation examine all QUEUED CLAIMs. -/
theorem examinable_of_claimLaw {s : State} (h : claimLaw s) : Examinable s (pendingClaims s) where
  slots := h.1
  nodup := by
    have hnodup : s.table.Nodup := List.Nodup.of_map _ h.1
    exact hnodup.filter _
  pending := fun c hc => by
    obtain ⟨hmem, hclaim, hq⟩ := mem_pendingClaims.mp hc
    exact ⟨hmem, ⟨hclaim, hq⟩, ((h.2 c.port).2 c hmem rfl hclaim).1 hq⟩
  alone := fun c hc d hd hcq hdq hne hport => hne ((claim_unique h hd hc hport hdq.1 hcq.1))

/-- Settles O27: all QUEUED CLAIMs are examined, and a grant among them leaves every other answer. -/
theorem evaluationGrantsAllItCan : Obligations.EvaluationGrantsAllItCan := by
  unfold Obligations.EvaluationGrantsAllItCan
  intro s hclaim t isGranted
  have h : Examined s (pendingClaims s) t :=
    foldl_grantIfPossible_examined _ s (examinable_of_claimLaw hclaim)
  have hgranted : ∀ c ∈ s.table, (c ∈ pendingClaims s ∧ grantable s c = true ↔ isGranted c) := by
    intro c hc
    rw [mem_pendingClaims]
    tauto
  refine ⟨?_, ?_, ?_, ?_, evaluateGrants_eq s⟩
  · intro c hc hk hq
    rw [h.table] at hc
    obtain ⟨e, he, rfl⟩ := List.mem_map.mp hc
    by_cases hg : e ∈ pendingClaims s ∧ grantable s e = true
    · rw [if_pos hg] at hq
      cases hq
    · rw [if_neg hg] at hk hq ⊢
      have hpending : e ∈ pendingClaims s := mem_pendingClaims.mpr ⟨he, hk, hq⟩
      have hno : grantable s e = false := Bool.eq_false_iff.mpr fun hgrant => hg ⟨hpending, hgrant⟩
      rw [h.rest e he ⟨hk, hq⟩ fun _ => hno, hno]
  · rw [h.table]
    refine List.map_congr_left fun e he => ?_
    by_cases hg : isGranted e
    · rw [if_pos ((hgranted e he).mpr hg), if_pos hg]
      rfl
    · rw [if_neg fun h => hg ((hgranted e he).mp h), if_neg hg]
  · intro c hc ⟨hk, hq, hgrant⟩
    exact h.held c (mem_pendingClaims.mpr ⟨hc, hk, hq⟩) hgrant
  · intro p hp
    refine h.kept p fun c hc hport => ?_
    obtain ⟨hmem, hk, hq⟩ := mem_pendingClaims.mp hc
    exact Bool.eq_false_iff.mpr fun hgrant => hp c hmem hport ⟨hk, hq, hgrant⟩

/-! ### The ends of a hold -/

/-- A drain test is told by the port's unit as the test of the state after it leaves it (R158). -/
theorem settleDrain_tested (s : State) (p : Port) {u : PortUnit} (h : s.port p = u) :
    (settleDrain s p).port p = { u with mode := drainTested (settleDrain s p) p u.mode } ∧
      settleDrain s p = { s with ports := s.ports.set p ((settleDrain s p).port p) } := by
  subst h
  exact ⟨settleDrain_port s p, settleDrain_eq_set s p⟩

/-- A port whose drain test changes nothing is left by it. -/
theorem settleDrain_same {s : State} {p : Port} (h : drainTested s p (s.port p).mode = (s.port p).mode) :
    settleDrain s p = s := by
  rw [settleDrain_eq, h]
  exact State.setPort_self s p

/-- Both ends of a hold end it and test the drain; REVOKE moves the index pointer too (R88, R89). -/
theorem exec_holdEnd {s : State} {p : Port} {c : Instr} {cause : Cause} {pointer : Byte}
    (h : c = .holdTimerExpiry p ∧ cause = .timer ∧ pointer = s.indexPointer ∨
      c = .revoke p ∧ cause = .revoked ∧ commandsTaken s ∧ pointer = 5) :
    exec c s = .next { settleDrain (expireHold s p cause) p with indexPointer := pointer } := by
  obtain ⟨rfl, rfl, rfl⟩ | ⟨rfl, rfl, htaken, rfl⟩ := h
  · have hpointer : (settleDrain (expireHold s p .timer) p).indexPointer = s.indexPointer := by
      rw [settleDrain_eq_set]
      exact (expireHold_requestSide s p .timer).indexPointer
    change Host.Outcome.next (settleDrain (expireHold s p .timer) p) = _
    rw [← hpointer]
  · exact congrArg Host.Outcome.next (takeCommand_taken htaken (revokeHold p))

/-- Settles O28: `expireHold_eq`, whose port has no QUEUED CLAIM for the evaluation to grant. -/
theorem holdsEndByTimerOrRevoke : Obligations.HoldsEndByTimerOrRevoke := by
  unfold Obligations.HoldsEndByTimerOrRevoke
  intro s p c cause pointer hc
  rw [exec_holdEnd hc]
  refine ⟨fun hnone hsame => ?_, ?_⟩
  · rw [expireHold_none hnone, settleDrain_same hsame]
  · intro h hh hclaim ended granted
    have hended : expireHold s p cause = granted := expireHold_eq hh cause
    have hclear : ∀ x ∈ ended.table, x.port = p → x.kind = .claim → x.state ≠ .queued := by
      intro x hx hp hk hq
      obtain ⟨e, he, rfl⟩ := List.mem_map.mp hx
      split at hq
      next hgranted =>
        exact nomatch hgranted.2.2.1.symm.trans hq
      next hnot =>
        rw [if_neg hnot] at hp hk
        obtain ⟨hqueued, -⟩ := (hclaim.2 p).2 e he hp hk
        exact nomatch (hqueued hq).symm.trans hh
    obtain ⟨hport, hset⟩ := settleDrain_tested granted p (evaluateGrants_port hclear)
    have hmode : (ended.port p).mode = (s.port p).mode := by
      change ((s.ports.set p _).get p).mode = _
      rw [PerPort.get_set_same]
      rfl
    rw [hended]
    refine ⟨_, rfl, ?_, ?_⟩
    · rw [← hmode]
      exact hport
    · exact congrArg (fun x : State => { x with indexPointer := pointer }) hset

end Sys2Proof.Machine
end

section
/-! PROOF. What ends a port's work from outside the request stream: the discard timer (R19), the
port-reset line (R160, R162), and ENABLE and DRAIN (R156, R158). -/

set_option Elab.async false

namespace Sys2Proof.Machine

/-! ### The discard timer -/

theorem with_self (s : State) (p : Port) : s.with p s.table s.counters (s.port p) = s :=
  State.setPort_self s p

theorem with_raiseDiscard (s : State) (t : List Entry) (c : DeviceCounters) (u : PortUnit) (e : Entry) :
    raiseDiscard (s.with e.port t c u) e =
      s.with e.port t c ((u.raised .discard e.addr .none).counted .discard 1) := by
  rw [raiseDiscard_eq, with_port, with_setPort]

/-- An evaluation of grants leaves every port's state. -/
theorem evaluateGrants_mode (s : State) (p : Port) :
    ((evaluateGrants s).port p).mode = (s.port p).mode := by
  rw [evaluateGrants_unit]

/-- The expiry of a discard timer leaves every port's state. -/
theorem discardEntry_mode (s : State) (e : Entry) :
    ((discardEntry s e).port e.port).mode = (s.port e.port).mode := by
  have hraise : ∀ x : State, ((raiseDiscard x e).port e.port).mode = (x.port e.port).mode := fun x => by
    rw [raiseDiscard_eq, State.setPort_port_same]
    rfl
  unfold discardEntry
  split
  · split
    · rfl
    · exact hraise _
  · exact (evaluateGrants_mode _ _).trans (hraise _)
  · dsimp only
    split
    · refine (evaluateGrants_mode _ _).trans ?_
      rw [freeHold, State.setPort_port_same]
      exact hraise _
    · exact hraise _

theorem exec_discardTimerExpiry {s : State} (hs : slotsDistinct s) {e : Entry} (he : e ∈ s.table)
    (hready : e.state = .ready) (htimer : e.discardTimer ≠ none) :
    exec (.discardTimerExpiry e.slot) s = .next (settleDrain (discardEntry s e) e.port) := by
  change execDiscardTimerExpiry e.slot s = _
  unfold execDiscardTimerExpiry
  rw [entryAt_eq_some hs he]
  exact if_pos ⟨hready, Option.isSome_iff_ne_none.mpr htimer⟩

/-- Settles O37: the effects by the entry's kind, then the drain test. -/
theorem discardExpiryFreesTheEntry : Obligations.DiscardExpiryFreesTheEntry := by
  unfold Obligations.DiscardExpiryFreesTheEntry
  intro s e hs he hready htimer p without discarded freed after
  have hafter : discardEntry s e = after := by
    have hdrop := with_dropEntry s p s.table s.counters (s.port p) e
    have hfree := with_freeEntry s p s.table s.counters (s.port p) e.slot
    have hraise := with_raiseDiscard s without
    rw [with_self] at hdrop hfree
    unfold discardEntry
    cases hk : e.kind with
    | fetch =>
      simp only [after, hk, hdrop]
      split
      next => rfl
      next => exact hraise _ _ e
    | putSync =>
      simp only [after, hk, hfree]
      exact congrArg evaluateGrants (hraise _ _ e)
    | claim =>
      simp only [after, hk, hfree]
      split
      next =>
        refine congrArg evaluateGrants ?_
        rw [hraise, freeHold, with_port, with_setPort]
        rfl
      next => exact hraise _ _ e
  obtain ⟨hport, hset⟩ := settleDrain_tested after p rfl
  refine ⟨settleDrain after p, ?_, ?_, hset⟩
  · rw [exec_discardTimerExpiry hs he hready htimer, hafter]
  · rw [hport, ← hafter, discardEntry_mode]

/-! ### The port-reset line -/

/-- Settles O41: the cleanup of the cut port, whose unit the grants leave. -/
theorem portResetCleansThePort : Obligations.PortResetCleansThePort := by
  unfold Obligations.PortResetCleansThePort
  intro s p
  refine ⟨?_, rfl⟩
  intro hpower cut cleaned granted
  have hcleanup : portCleanup (s.setPort p cut) p = granted := portCleanup_eq _ p
  have hexec : exec (.portResetAssert p) s = .next (settleDrain granted p) := by
    change Host.Outcome.next (assertPortReset s p) = _
    rw [assertPortReset, if_neg (by simp [hpower]), ← hcleanup]
    rfl
  have hunit : granted.port p = cleaned.port p := evaluateGrants_port (cleanedUp_not_queued _ p)
  have hmode : (cleaned.port p).mode = (s.port p).mode := by
    simp only [cleaned, cleanedUp, State.port, State.setPort, PerPort.get_set_same, cut]
  obtain ⟨hport, hset⟩ := settleDrain_tested granted p hunit
  exact ⟨_, hexec, hmode ▸ hport, hset⟩

/-! ### ENABLE and DRAIN -/

theorem enablePort_enables {s : State} {p : Port}
    (h : (s.port p).mode = .off ∨ (s.port p).mode = .quiet ∨ (s.port p).mode = .fault) :
    enablePort p s = s.setPort p { s.port p with mode := .active, garbleCount := 0 } := by
  unfold enablePort
  obtain h | h | h := h <;> simp only [h]

theorem enablePort_same {s : State} {p : Port}
    (h : (s.port p).mode = .active ∨ (s.port p).mode = .draining) : enablePort p s = s := by
  unfold enablePort
  obtain h | h := h <;> simp only [h]

theorem drainPort_active {s : State} {p : Port} (h : (s.port p).mode = .active) :
    drainPort p s =
      s.setPort p
        { s.port p with
          mode := drainTested (s.setPort p { s.port p with mode := .draining }) p .draining } := by
  unfold drainPort
  simp only [h]
  rw [settleDrain_eq, State.setPort_port_same, State.setPort_setPort]

theorem drainPort_same {s : State} {p : Port} (h : (s.port p).mode ≠ .active) : drainPort p s = s := by
  unfold drainPort
  cases hmode : (s.port p).mode with
  | active => exact absurd hmode h
  | off | draining | quiet | fault => simp only [hmode]

/-- Settles O42: both commands by the port's state; DRAIN tests the drain at once. -/
theorem enableAndDrainMoveThePort : Obligations.EnableAndDrainMoveThePort := by
  unfold Obligations.EnableAndDrainMoveThePort
  intro s p htaken u taken
  have henable : exec (.enable p) s = .next { enablePort p s with indexPointer := 5 } :=
    congrArg Host.Outcome.next (takeCommand_taken htaken _)
  have hdrain : exec (.drain p) s = .next { drainPort p s with indexPointer := 5 } :=
    congrArg Host.Outcome.next (takeCommand_taken htaken _)
  have hself : taken u = { s with indexPointer := 5 } :=
    congrArg (fun x : State => { x with indexPointer := 5 }) (State.setPort_self s p)
  have hempty : drainTested (s.setPort p { u with mode := .draining }) p .draining =
      if (∀ e ∈ s.table, e.port ≠ p) ∧ u.queue = [] ∧ u.hold = none then .quiet else .draining := by
    unfold drainTested
    simp only [State.setPort_port_same, true_and]
    rfl
  rw [henable, hdrain]
  refine ⟨fun hmode => ?_, fun hmode => ?_, fun hmode => ⟨fun hno hqueue hhold => ?_, fun hwork => ?_⟩,
    fun hmode => ?_⟩
  · rw [enablePort_enables hmode]
  · rw [hself, enablePort_same hmode]
  · rw [drainPort_active hmode, hempty, if_pos ⟨hno, hqueue, hhold⟩]
  · rw [drainPort_active hmode, hempty, if_neg]
    rintro ⟨hno, hqueue, hhold⟩
    obtain ⟨e, he, hport⟩ | h | h := hwork
    · exact hno e he hport
    · exact h hqueue
    · exact h hhold
  · rw [hself, drainPort_same hmode]

end Sys2Proof.Machine
end

section
/-! PROOF. The scheduler: which work a port offers (R102), whom a decision picks class by class (R104),
and what each issue leaves (R96 to R98, R106, R128). -/

set_option Elab.async false

namespace Sys2Proof.Machine

/-! ### What a port offers -/

/-- The candidate that an entry makes (R4, R97). -/
theorem candidateOfEntry_place {e : Entry} {place : Place} (h : e.place = some place) :
    candidateOfEntry e =
      some { port := e.port, work := .entry e.slot, write := e.kind == .putSync, place := place
             base := e.addr
             words :=
               if e.kind = .fetch ∧ e.prefetch = true then (128 - e.addr.toNat % 128) / 8
               else e.length } := by
  rw [candidateOfEntry, h, Option.map_some, Entry.accessWords_eq]

/-- The first issuable entry of the port in the age order is its oldest (R3, R23). -/
theorem oldestIssuable_eq_some {s : State} {p : Port} {older younger : List Entry} {e : Entry}
    (htable : s.table = older ++ e :: younger) (hport : e.port = p) (hmay : mayIssue s e)
    (hfirst : ∀ x ∈ older, x.port = p → ¬ mayIssue s x) : oldestIssuable s p = some e := by
  rw [oldestIssuable, htable, List.find?_append]
  have hnone : older.find? (fun x => x.port == p && issuable s x) = none := by
    rw [List.find?_eq_none]
    intro x hx
    simpa [issuable_iff] using hfirst x hx
  rw [hnone, Option.none_or, List.find?_cons_of_pos]
  simpa [issuable_iff, hport] using hmay

theorem oldestIssuable_eq_none {s : State} {p : Port}
    (hnone : ∀ e ∈ s.table, e.port = p → ¬ mayIssue s e) : oldestIssuable s p = none := by
  rw [oldestIssuable, List.find?_eq_none]
  intro e he
  simpa [issuable_iff] using hnone e he

/-- A put-queue head is offered when its rank is READY and it is not in flight (R50). -/
theorem readyHead_eq_some {s : State} {p : Port} {q : PutEntry} {rest : List PutEntry}
    (hqueue : (s.port p).queue = q :: rest) (hready : (s.rank q.place.rank).state = .ready)
    (hidle : q.inFlight = false) : readyHead s p = some q := by
  simp [readyHead, hqueue, placeReady, hready, hidle]

theorem readyHead_eq_none {s : State} {p : Port}
    (h : ∀ q rest, (s.port p).queue = q :: rest →
      (s.rank q.place.rank).state ≠ .ready ∨ q.inFlight = true) : readyHead s p = none := by
  unfold readyHead
  cases hqueue : (s.port p).queue with
  | nil => rfl
  | cons q rest =>
    have hnot : ¬ (placeReady s (some q.place) = true ∧ ¬ q.inFlight = true) := by
      simpa [placeReady, or_iff_not_imp_left] using h q rest hqueue
    exact if_neg hnot

/-- Settles O29: the oldest issuable entry goes before the head, for its fence is met (R55). -/
theorem portsOfferTheirOldestWork : Obligations.PortsOfferTheirOldestWork := by
  unfold Obligations.PortsOfferTheirOldestWork
  intro s p
  refine ⟨fun e _ => issuable_iff s e, ?_, fun hnone => ⟨?_, ?_⟩⟩
  · intro older e younger htable hport hmay hfirst
    obtain ⟨place, hplace, -⟩ := hmay.2.2.1
    have hoffer : accessCandidate s p = candidateOfEntry e := by
      unfold accessCandidate
      rw [oldestIssuable_eq_some htable hport hmay hfirst]
      cases readyHead s p with
      | none => rfl
      | some q => exact if_pos (entryOlder_of_mayIssue hmay q)
    exact ⟨place, hplace, by rw [hoffer, candidateOfEntry_place hplace, hport]⟩
  · intro q rest hqueue hready hidle
    unfold accessCandidate
    rw [oldestIssuable_eq_none hnone, readyHead_eq_some hqueue hready hidle]
    rfl
  · intro hhead
    unfold accessCandidate
    rw [oldestIssuable_eq_none hnone, readyHead_eq_none hhead]

/-! ### Whom a decision picks -/

section

variable {s : State}

/-- Without a forced refresh, the lower rank whose row is due for closing (R104). -/
theorem winner_close {r : RankId} (hforced : ∀ x, ¬ refreshForced s x) (h : closeDueNow s r)
    (hlowest : ∀ x, x < r → ¬ closeDueNow s x) : winner s = some (.close r) := by
  have hr := (closeCandidate_iff s r).mpr h
  unfold winner
  rw [forcedCandidate_none (hforced 0), forcedCandidate_none (hforced 1)]
  match r with
  | 0 => exact if_pos hr
  | 1 => exact (if_neg fun h0 => hlowest 0 (by decide) ((closeCandidate_iff s 0).mp h0)).trans (if_pos hr)

/-- Past the classes (a) and (b) the access winner decides, and without one the pull-in winner (R104). -/
theorem winner_access (hforced : ∀ r, ¬ refreshForced s r) (hclose : ∀ r, ¬ closeDueNow s r) :
    winner s =
      match accessWinner s with
      | some c => some (.access c)
      | none => (pullInWinner s).map fun r => .refresh r .pullIn := by
  unfold winner
  rw [forcedCandidate_none (hforced 0), forcedCandidate_none (hforced 1)]
  exact (if_neg fun h => hclose 0 ((closeCandidate_iff s 0).mp h)).trans
    (if_neg fun h => hclose 1 ((closeCandidate_iff s 1).mp h))

/-- During a warm reset, or with no port offering work, no access wins (R111). -/
theorem accessWinner_eq_none (h : s.warm ≠ .idle ∨ ∀ p, accessCandidate s p = none) :
    accessWinner s = none := by
  have hnone : scannedCandidates s = [] := by
    unfold scannedCandidates
    obtain hwarm | hno := h
    · exact if_neg hwarm
    · split
      · exact List.filterMap_eq_nil_iff.mpr fun p _ => hno p
      · rfl
  unfold accessWinner
  simp [hnone]

/-- The pull-in winner has the higher balance, rank 0 at equal balance (R104). -/
theorem pullInWinner_eq {r : RankId} (h : pullInPossible s r)
    (hbest : ∀ x, x ≠ r → pullInPossible s x →
      (s.rank x).balance < (s.rank r).balance ∨
        ((s.rank x).balance = (s.rank r).balance ∧ r < x)) : pullInWinner s = some r := by
  have hr := (pullInCandidate_iff s r).mpr h
  unfold pullInWinner
  match r with
  | 0 =>
    rw [if_pos hr, if_neg]
    rintro ⟨h1, hless⟩
    have := hbest 1 (by decide) ((pullInCandidate_iff s 1).mp h1)
    omega
  | 1 =>
    split
    next h0 =>
      have hless := (hbest 0 (by decide) ((pullInCandidate_iff s 0).mp h0)).resolve_right fun h =>
        absurd h.2 (by decide)
      rw [if_pos ⟨hr, hless⟩]
    next => rfl

theorem pullInWinner_eq_none (h : ∀ r, ¬ pullInPossible s r) : pullInWinner s = none := by
  have hno : ∀ r, ¬ pullInCandidate s r = true := fun r hr => h r ((pullInCandidate_iff s r).mp hr)
  unfold pullInWinner
  rw [if_neg (hno 0), if_neg (hno 1)]

theorem makeDecision_none (h : winner s = none) : makeDecision s = s := by
  unfold makeDecision
  rw [h]
  exact ite_self s

theorem makeDecision_busy {x : BusOp} (h : s.bus = some x) : makeDecision s = s := by
  unfold makeDecision mayDecide
  rw [h]
  rfl

end

/-- Class (a) with the class that the operation record names (R98, R100). -/
theorem winner_forced {s : State} {r : RankId} {k : RefreshClass} (h : refreshForced s r)
    (hlowest : ∀ x, x < r → ¬ refreshForced s x) (hk : forcedCandidate s r = some k) :
    winner s = some (.refresh r k) := by
  unfold winner
  match r with
  | 0 => rw [hk]
  | 1 => rw [forcedCandidate_none (hlowest 0 (by decide)), hk]

theorem countDevice_one (s : State) (k : DeviceCounter) :
    countDevice s k 1 =
      { s with
        counters := s.counters.set k
          (if s.counters.get k = 65535 then s.counters.get k else s.counters.get k + 1) } := by
  rw [countDevice, saturatingAdd_one]
  split
  next h => rw [h]
  next => rfl

/-- Settles O30: the winner by class, and its issue. -/
theorem decisionsIssueRefreshesAndCloses : Obligations.DecisionsIssueRefreshesAndCloses := by
  unfold Obligations.DecisionsIssueRefreshesAndCloses
  intro s hpower hbus issued more noOther
  have hissue : ∀ {x}, winner s = some x → exec .decision s = .next (issue s x) := fun hx =>
    congrArg Host.Outcome.next (makeDecision_winner hbus hpower hx)
  refine ⟨fun r hforced hlowest => ⟨fun hready => ?_, fun hwake => ?_⟩, fun r hforced hclose hlowest => ?_,
    fun r hno hpull hbest => ?_, fun hno hpull => ?_, fun b => ?_⟩
  · rw [hissue (winner_forced hforced hlowest (forcedCandidate_ready hforced hready))]
    exact congrArg Host.Outcome.next (countDevice_one _ .forcedRefresh)
  · rw [hissue (winner_forced hforced hlowest (forcedCandidate_wake hforced hwake))]
    rfl
  · rw [hissue (winner_close hforced hclose hlowest)]
    rfl
  · obtain ⟨hforced, hclose, haccess⟩ := hno
    have hwin : winner s = some (.refresh r .pullIn) := by
      rw [winner_access hforced hclose, accessWinner_eq_none haccess, pullInWinner_eq hpull hbest]
      rfl
    rw [hissue hwin]
    exact congrArg Host.Outcome.next (countDevice_one _ .pullInRefresh)
  · obtain ⟨hforced, hclose, haccess⟩ := hno
    have hwin : winner s = none := by
      rw [winner_access hforced hclose, accessWinner_eq_none haccess, pullInWinner_eq_none hpull]
      rfl
    exact congrArg Host.Outcome.next (makeDecision_none hwin)
  · exact congrArg Host.Outcome.next (makeDecision_busy rfl)

/-! ### The issue of an access -/

/-- Settles O31: the winner of the scan is issued. -/
theorem decisionsIssueAccesses : Obligations.DecisionsIssueAccesses := by
  unfold Obligations.DecisionsIssueAccesses
  intro s w c hpower hbus hforced hclose hwarm hc hwins r hit
  have hport : c.port = w := accessCandidate_port hc
  have hhit : isHit s c = true ↔ hit := isHit_iff s c
  have hrank : (issueAccess s c).rank r = rankForAccess (s.rank r) c.place.row := by
    rw [issueAccess_rank, State.setRank_rank_same]
  have hexec : exec .decision s = .next (issueAccess s c) := by
    have hwin : winner s = some (.access c) := by
      rw [winner_access hforced hclose, accessWinner_eq hwarm hc hwins]
    exact congrArg Host.Outcome.next (makeDecision_winner hbus hpower hwin)
  refine ⟨issueAccess s c, hexec, ?_, ?_, fun h => ?_, fun h => ?_, fun n hn => ⟨?_, ?_⟩,
    fun hn => ⟨?_, fun q hq => ?_, fun h rest hqueue => ?_⟩, ?_⟩
  · rw [← hport]
    rfl
  · change afterWin s.sched c.port (isHit s c) = _
    rw [hport, afterWin]
    by_cases h : hit
    · rw [hhit.mpr h]
      simp [h]
    · rw [Bool.eq_false_iff.mpr fun k => h (hhit.mp k)]
      simp [h]
  · rw [hrank, rankForAccess, if_pos h]
  · rw [hrank, rankForAccess, if_neg h]
    rfl
  · rw [issueAccess_ports, hn]
  · rw [issueAccess_table, hn]
  · rw [issueAccess_table, hn]
  · rw [State.port, issueAccess_ports, hn, hport]
    exact PerPort.get_set_ne _ _ hq
  · rw [State.port, issueAccess_ports, hn, hport]
    refine (PerPort.get_set_same _ _ _).trans ?_
    rw [hqueue]
  · rw [hrank]
    unfold issueAccess markIssued
    cases c.work <;> rfl

end Sys2Proof.Machine
end

section
/-! PROOF. Completions on the memory bus: reads (R132, R142), the coherence search (R59), writes (R140),
and refreshes (R119, R125). -/

set_option Elab.async false

namespace Sys2Proof.Machine

/-! ### The entry that an access serves -/

theorem issuedEntry_of {s : State} (hs : slotsDistinct s) {a : Access} {e : Entry} (he : e ∈ s.table)
    (hwork : a.work = .entry e.slot) (hissued : e.state = .issued) : issuedEntry s a = some e := by
  unfold issuedEntry
  rw [hwork]
  dsimp only
  rw [entryAt_eq_some hs he]
  exact if_pos hissued

theorem withinMemory_of_le {s : State} {a : Access} (h : a.base.toNat + 8 * a.words ≤ totalCapacity s) :
    withinMemory s a = true :=
  decide_eq_true h

/-! ### Reads -/

theorem exec_accessReadComplete {s : State} {a : Access} (hbus : s.bus = some (.access a))
    (hread : a.write = false) (hin : a.base.toNat + 8 * a.words ≤ totalCapacity s) :
    exec .accessReadComplete s = .next (completeRead s a) := by
  change execAccessReadComplete s = _
  unfold execAccessReadComplete
  rw [hbus]
  dsimp only
  rw [if_neg (by simp [hread]), if_pos (withinMemory_of_le hin)]

/-- A read's completion at the entry it serves (R13, R132). -/
theorem readBack_entry {s : State} (hs : slotsDistinct s) {a : Access} {e : Entry} (he : e ∈ s.table)
    (hwork : a.work = .entry e.slot) (hissued : e.state = .issued) :
    readBack s a =
      { s with
        bus := none
        ranks := s.ranks.set a.rank (rankAfterAccess (s.rank a.rank) a.policy)
        table :=
          if e.orphan then s.table.filter fun x => decide (x.slot ≠ e.slot)
          else s.table.map fun x =>
            if x.slot = e.slot then
              { e with
                state := .ready, readData := readWordsOf s a, discardTimer := freshDiscard s }
            else x
        counters := if e.orphan then s.counters.suppressed (readWordsOf s a) else s.counters } := by
  have hentry : issuedEntry (freeBusAfterAccess s a) a = some e :=
    issuedEntry_of (s := freeBusAfterAccess s a) hs he hwork hissued
  unfold readBack
  dsimp only
  rw [hentry]
  dsimp only
  unfold deliverRead
  by_cases horphan : e.orphan = true
  · simp only [if_pos horphan]
    rw [← freeEntry_table s e.slot]
    rfl
  · simp only [if_neg horphan]
    exact congrArg (fun t => { freeBusAfterAccess s a with table := t })
      (map_at_slot hs he fun x =>
        { x with state := .ready, readData := readWordsOf s a, discardTimer := freshDiscard s })

/-- Settles O32: the words read go to the entry served, then grants and the drain test. -/
theorem readsComplete : Obligations.ReadsComplete := by
  unfold Obligations.ReadsComplete
  intro s a e hs hbus hread hin he hwork hissued words read granted
  have hback : readBack s a = read := by
    rw [readBack_entry hs he hwork hissued]
    have hwords : readWordsOf s a = words := Memory.readWords_eq _ _ _ _
    rw [hwords]
    unfold rankAfterAccess
    dsimp only [read]
    cases a.policy <;> rfl
  obtain ⟨hport, hset⟩ := settleDrain_tested granted a.port rfl
  refine ⟨settleDrain granted a.port, ?_, hport, hset⟩
  rw [exec_accessReadComplete hbus hread hin, completeRead_eq, hback]

/-! ### The coherence search -/

/-- Settles O33: `madeStale_iff` says which entries the search finds. -/
theorem coherenceSearchDropsStaleWords : Obligations.CoherenceSearchDropsStaleWords := by
  unfold Obligations.CoherenceSearchDropsStaleWords
  intro s base words written held stale decided hdecided
  have hstale : ∀ e, madeStale (writtenWords base words) e = decided e := fun e =>
    Bool.eq_iff_iff.mpr ((madeStale_iff base words e).trans (hdecided e).symm)
  unfold coherenceSearch
  simp only [hstale, suppress_eq]
  have htable : (s.table.filterMap fun e => if decided e then invalidate e else some e) =
      (s.table.filter fun e => !(decided e && e.leftover)).map fun e =>
        if decided e then { e with state := .queued, readData := [], discardTimer := none } else e := by
    rw [← List.filterMap_eq_map, List.filterMap_filter]
    refine List.filterMap_congr fun e _ => ?_
    by_cases hd : decided e = true
    · by_cases hl : e.leftover = true <;> simp [hd, hl, invalidate]
    · simp [hd]
  rw [htable]

/-! ### Writes -/

theorem exec_accessWriteComplete {s : State} {a : Access} (hbus : s.bus = some (.access a))
    (hwrite : a.write = true) (hin : a.base.toNat + 8 * a.words ≤ totalCapacity s) :
    exec .accessWriteComplete s = .next (completeWrite s a) := by
  change execAccessWriteComplete s = _
  unfold execAccessWriteComplete
  rw [hbus]
  dsimp only
  rw [if_neg (by simp [hwrite]), if_pos (withinMemory_of_le hin)]

/-- The byte that the words of a write from `base` present for an address (R151). -/
def presented (base : Nat) (words : List HeldWord) (x : Nat) : Option HeldByte :=
  if x < base then none else (words[(x - base) / 8]?).map fun w => w.get (Fin.ofNat 8 (x - base))

/-- A write stores the masked bytes presented and leaves every other address (R140). -/
theorem read_storeWords_presented (m : Memory) (n base : Nat) (words : List HeldWord) (x : Nat) :
    (∀ b, presented base words x = some b → b.mask = true →
      (m.storeWords base words).read n x = { data := b.data, parity := b.parity }) ∧
      ((∀ b, presented base words x = some b → b.mask = false) →
        (m.storeWords base words).read n x = m.read n x) := by
  unfold presented
  by_cases hx : x < base
  · rw [if_pos hx]
    exact ⟨fun b hb => (nomatch hb), fun _ => Memory.read_storeWords_below m n words hx⟩
  · obtain ⟨k, rfl⟩ := Nat.exists_eq_add_of_le (Nat.le_of_not_lt hx)
    rw [if_neg hx, Memory.read_storeWords, Nat.add_sub_cancel_left]
    cases (words[k / 8]?).map fun w => w.get (Fin.ofNat 8 k) with
    | none => exact ⟨fun b hb => (nomatch hb), fun _ => rfl⟩
    | some b =>
      refine ⟨fun x hx hmask => ?_, fun hnone => if_neg (by simp [hnone b rfl])⟩
      cases hx
      exact if_pos hmask

/-- A write's completion, with the work it served as `retired` leaves it (R132). -/
theorem completeWrite_retired {s : State} {a : Access} {words : List HeldWord} (hwords : writeData s a = words) :
    completeWrite s a = warmStep (settleDrains (evaluateGrants (coherenceSearch
      (retireWrite (freeBusAfterAccess { s with memory := s.memory.storeWords a.base.toNat words } a) a)
      (writtenWords a.base.toNat words)))) := by
  rw [← hwords]
  rfl

/-- The completion of a PUT's write at the head of its queue (R51). -/
theorem retireWrite_putHead {s : State} {a : Access} (hwork : a.work = .putHead) {q : PutEntry}
    {rest : List PutEntry} (hqueue : (s.port a.port).queue = q :: rest) :
    retireWrite s a =
      { s with
        ports := s.ports.set a.port
          { s.port a.port with queue := rest, written := (s.port a.port).written + 1 }
        table := s.table.map (meetFence a.port ((s.port a.port).written + 1)) } := by
  unfold retireWrite
  rw [hwork]
  dsimp only
  unfold retireHead
  dsimp only
  rw [hqueue]
  rfl

/-- The completion of a PUT_SYNC's write at its entry (R5, R13, R141). -/
theorem retireWrite_entry {s : State} (hs : slotsDistinct s) {a : Access} {e : Entry} (he : e ∈ s.table)
    (hwork : a.work = .entry e.slot) (hissued : e.state = .issued) :
    retireWrite s a =
      { s with
        table :=
          if e.orphan then s.table.filter fun x => decide (x.slot ≠ e.slot)
          else s.table.map fun x =>
            if x.slot = e.slot then
              { e with
                state := .ready, result := some (anyMarked e.writeData)
                discardTimer := freshDiscard s }
            else x } := by
  unfold retireWrite
  rw [hwork]
  dsimp only
  rw [issuedEntry_of hs he hwork hissued]
  dsimp only
  unfold deliverWrite
  by_cases horphan : e.orphan = true
  · simp only [if_pos horphan]
    rw [← freeEntry_table s e.slot]
    rfl
  · simp only [if_neg horphan]
    exact congrArg (fun t => { s with table := t })
      (map_at_slot hs he fun x =>
        { x with
          state := .ready, result := some (anyMarked x.writeData), discardTimer := freshDiscard s })

/-- Settles O34: the bytes are stored, the work is retired, and the rest follows for either kind. -/
theorem writesComplete : Obligations.WritesComplete := by
  unfold Obligations.WritesComplete
  intro s a words hs hbus hwrite hin byteFor stored freed finished
  have hstored : stored (s.memory.storeWords a.base.toNat words) :=
    read_storeWords_presented s.memory s.powerOns a.base.toNat words
  have hfreed : freeBusAfterAccess { s with memory := s.memory.storeWords a.base.toNat words } a =
      freed (s.memory.storeWords a.base.toNat words) := by
    unfold freeBusAfterAccess rankAfterAccess
    dsimp only [freed]
    cases a.policy <;> rfl
  have hexec : ∀ x, writeData s a = words →
      retireWrite (freed (s.memory.storeWords a.base.toNat words)) a = x →
      exec .accessWriteComplete s = .next (warmStep (finished x)) := by
    intro x hwords hretired
    rw [exec_accessWriteComplete hbus hwrite hin, completeWrite_retired hwords, hfreed, hretired,
      settleDrains_eq]
  refine ⟨fun q rest hwork hqueue hwords => ⟨_, hstored, hexec _ ?_ ?_⟩,
    fun e he hwork hissued hwords => ⟨_, hstored, hexec _ ?_ ?_⟩⟩
  · unfold writeData
    rw [hwork]
    dsimp only
    rw [hqueue, hwords]
  · exact retireWrite_putHead (s := freed (s.memory.storeWords a.base.toNat words)) hwork hqueue
  · unfold writeData
    rw [hwork]
    dsimp only
    rw [issuedEntry_of hs he hwork hissued, hwords]
  · rw [retireWrite_entry (s := freed (s.memory.storeWords a.base.toNat words)) hs he hwork hissued,
      anyMarked_eq, hwords]
    rfl

/-! ### Refreshes -/

theorem allReady_iff (s : State) :
    allReady s = true ↔ ∀ x, (s.rank x).state = .ready ∨ (s.rank x).state = .absent := by
  simp [allReady, Fin.forall_fin_two]

/-- Settles O35: the completion of a refresh by its class, and in WAKE by the wake count. -/
theorem refreshesComplete : Obligations.RefreshesComplete := by
  unfold Obligations.RefreshesComplete
  intro s r k hbus c counted after ready
  refine ⟨fun hk => ?_, fun hk hcount => ?_, fun hk hcount => ?_⟩
  · change execRefreshComplete s = _
    unfold execRefreshComplete
    rw [hbus]
    cases k with
    | wake => exact absurd rfl hk
    | forced | pullIn => rfl
  · subst hk
    change execInitializationRefreshComplete s = _
    unfold execInitializationRefreshComplete
    rw [hbus]
    dsimp only
    unfold completeInitialization
    refine congrArg (fun x => Host.Outcome.next (warmStep x)) ?_
    exact if_neg (Nat.sub_ne_zero_of_lt hcount)
  · subst hk
    change execInitializationRefreshComplete s = _
    unfold execInitializationRefreshComplete
    rw [hbus]
    dsimp only
    unfold completeInitialization
    refine congrArg (fun x => Host.Outcome.next (warmStep x)) ?_
    have hzero : c.wakeCount - 1 = 0 := by rw [hcount]
    have hready : allReady (after ready) = true ↔
        ∀ x, x ≠ r → (s.rank x).state = .ready ∨ (s.rank x).state = .absent := by
      rw [allReady_iff]
      refine forall_congr' fun x => ?_
      by_cases hx : x = r
      · subst hx
        refine iff_of_true (.inl ?_) (absurd rfl)
        exact congrArg RankControl.state (PerRank.get_set_same s.ranks x ready)
      · have hrank : (after ready).rank x = s.rank x := PerRank.get_set_ne _ _ hx
        rw [hrank]
        exact ⟨fun h _ => h, fun h => h hx⟩
    have hwoken : ({ s with bus := none } : State).setRank r (becomeReady s
        { goIdle c with wakeCount := c.wakeCount - 1, rowCounter := c.rowCounter + 1 }) = after ready := by
      rw [hzero]
      rfl
    refine (if_pos hzero).trans ?_
    refine (congrArg (fun x => if allReady x then setDeviceFlag x initDoneBit else x) hwoken).trans ?_
    by_cases hall : ∀ x, x ≠ r → (s.rank x).state = .ready ∨ (s.rank x).state = .absent
    · rw [if_pos hall]
      exact if_pos (hready.mpr hall)
    · rw [if_neg hall]
      exact if_neg fun h => hall (hready.mp h)

end Sys2Proof.Machine
end

section
/-! PROOF. The timers of the ranks (R123, R124, R129) and the warm reset (R180 to R184). -/

set_option Elab.async false

namespace Sys2Proof.Machine

/-! ### The interval timer -/

section

variable {s : State} {r : RankId}

theorem exec_intervalTimerExpiry (hready : (s.rank r).state = .ready)
    (htimer : (s.rank r).intervalTimer ≠ none) :
    exec (.intervalTimerExpiry r) s = .next (intervalExpiry s r) :=
  if_pos ⟨hready, Option.isSome_iff_ne_none.mpr htimer⟩

theorem intervalExpiry_below (h : (s.rank r).balance < 8) :
    intervalExpiry s r =
      s.setRank r
        { s.rank r with
          intervalTimer := some s.settings.interval.toNat, balance := (s.rank r).balance + 1 } :=
  if_pos h

theorem intervalExpiry_overrun (h : 8 ≤ (s.rank r).balance) :
    intervalExpiry s r =
      { s.setRank r
          { s.rank r with intervalTimer := some s.settings.interval.toNat, doubt := true } with
        deviceFlags := s.deviceFlags ||| 0x01
        counters :=
          { s.counters with
            overrun := if s.counters.overrun = 65535 then 65535 else s.counters.overrun + 1 } } := by
  unfold intervalExpiry
  refine (if_neg (by simpa using h)).trans ?_
  rw [← saturatingAdd_one]
  unfold overrun
  dsimp only
  rw [State.setRank_rank_same, State.setRank_setRank]
  rfl

/-- The expiry changes the rank, which stays READY, and of the rest device flags and counters (R123). -/
theorem intervalExpiry_frame (hready : (s.rank r).state = .ready) :
    ((intervalExpiry s r).rank r).state = .ready ∧ (intervalExpiry s r).bus = s.bus ∧
      (intervalExpiry s r).settings = s.settings ∧ (intervalExpiry s r).sched = s.sched := by
  by_cases h : (s.rank r).balance < 8
  · rw [intervalExpiry_below h, State.setRank_rank_same]
    exact ⟨hready, rfl, rfl, rfl⟩
  · rw [intervalExpiry_overrun (Int.not_lt.mp h)]
    refine ⟨?_, rfl, rfl, rfl⟩
    exact (congrArg RankControl.state (PerRank.get_set_same s.ranks r _)).trans hready

/-- A READY rank owes a forced refresh at the threshold, unless refresh is paused (R100). -/
theorem refreshForced_of_ready (hready : (s.rank r).state = .ready) :
    refreshForced s r ↔
      (s.settings.threshold.toNat : Int) ≤ (s.rank r).balance ∧ s.sched.refreshPaused = false := by
  simp [refreshForced, hready]

end

/-- Settles O38: the two outcomes of the expiry, after which the rank is still READY. -/
theorem intervalExpiryRaisesTheBalance : Obligations.IntervalExpiryRaisesTheBalance := by
  unfold Obligations.IntervalExpiryRaisesTheBalance
  intro s r hready htimer loaded
  rw [exec_intervalTimerExpiry hready htimer]
  refine ⟨fun h => congrArg _ (intervalExpiry_below h), fun h => congrArg _ (intervalExpiry_overrun h),
    fun t ht => ?_⟩
  obtain ⟨hstate, hbus, hsettings, hsched⟩ := intervalExpiry_frame hready
  rw [Host.Outcome.next.injEq] at ht
  subst ht
  rw [refreshForced_of_ready hstate, hsettings, hsched]
  exact ⟨Iff.rfl, hbus⟩

/-! ### The row-open timer -/

theorem exec_rowOpenTimerExpiry {s : State} {r : RankId} (h : (s.rank r).rowOpenTimer ≠ none) :
    exec (.rowOpenTimerExpiry r) s = .next (s.setRank r (markCloseDue (s.rank r))) :=
  if_pos (Option.isSome_iff_ne_none.mpr h)

/-- The completion of an access leaves its rank as the recorded policy says (R128). -/
theorem completion_rank {s t : State} {a : Access} (hbus : s.bus = some (.access a))
    (h : exec .accessReadComplete s = .next t ∧ a.write = false ∨
      exec .accessWriteComplete s = .next t ∧ a.write = true) :
    t.rank a.rank = rankAfterAccess (s.rank a.rank) a.policy := by
  have hfreed : ∀ x : State, (freeBusAfterAccess x a).rank a.rank =
      rankAfterAccess (x.rank a.rank) a.policy := fun x => PerRank.get_set_same _ _ _
  have hwarm : ∀ x : State, (warmStep x).rank a.rank = x.rank a.rank := fun x =>
    State.rank_congr (warmStep_frame x).1 _
  obtain ⟨hexec, hread⟩ | ⟨hexec, hwrite⟩ := h
  · change execAccessReadComplete s = _ at hexec
    unfold execAccessReadComplete at hexec
    rw [hbus] at hexec
    dsimp only at hexec
    rw [if_neg (by simp [hread])] at hexec
    split_ifs at hexec
    rw [← Host.Outcome.next.inj hexec, completeRead_eq, hwarm, (settleDrain_requestSide _ _).rank, (evaluateGrants_requestSide _).rank,
      (readBack_requestSide s a).rank, hfreed]
  · change execAccessWriteComplete s = _ at hexec
    unfold execAccessWriteComplete at hexec
    rw [hbus] at hexec
    dsimp only at hexec
    rw [if_neg (by simp [hwrite])] at hexec
    split_ifs at hexec
    rw [← Host.Outcome.next.inj hexec, completeWrite_eq, hwarm, (settleDrains_requestSide _).rank, (evaluateGrants_requestSide _).rank,
      (writeBack_requestSide s a).rank, hfreed]
    rfl

/-- Settles O40: the mark is set at once, and an access that completes keeps it or clears it with the row. -/
theorem rowTimerExpiryMakesTheCloseDue : Obligations.RowTimerExpiryMakesTheCloseDue := by
  unfold Obligations.RowTimerExpiryMakesTheCloseDue
  intro s r htimer
  have hexec := exec_rowOpenTimerExpiry htimer
  have hrank : (s.setRank r (markCloseDue (s.rank r))).rank r = markCloseDue (s.rank r) :=
    State.setRank_rank_same _ _ _
  refine ⟨hexec, fun t ht => ?_⟩
  rw [hexec, Host.Outcome.next.injEq] at ht
  subst ht
  refine ⟨fun hready hopen => ?_, ?_⟩
  · unfold closeDueNow
    rw [hrank]
    exact ⟨hready, hopen, .inl rfl⟩
  · rintro a u hbus rfl - hcomplete
    have hafter := completion_rank (s := s.setRank a.rank (markCloseDue (s.rank a.rank))) hbus hcomplete
    rw [hrank] at hafter
    rw [hafter]
    refine ⟨fun hpolicy => ?_, fun hpolicy => ?_⟩
    · rw [hpolicy]
      exact ⟨rfl, rfl, rfl⟩
    · rw [hpolicy]
      exact ⟨rfl, rfl, rfl⟩

/-! ### The warm reset -/

/-- The clearing point leaves every counter but the row counters at 0 (R182). -/
theorem counterValue_clearAll {s : State} {c : CounterId} (h : ∀ r, c ≠ .row r) :
    counterValue (clearAll s) c = 0 := by
  cases c with
  | port p k => exact counterValue_clearAll_port s p k
  | device k => exact counterValue_clearAll_device s k
  | row r => exact absurd rfl (h r)

/-- The clearing point leaves every snapshot at 0 (R182). -/
theorem snapshotValue_clearAll (s : State) (c : CounterId) : snapshotValue (clearAll s) c = 0 := by
  cases c with
  | port p k =>
    change ((clearAll s).port p).snapshots.get k = 0
    rw [clearAll_port]
    exact zeroPortCounters_get k
  | device k => exact zeroDeviceCounters_get k
  | row r => fin_cases r <;> rfl

theorem exec_warmReset {s : State} (htaken : commandsTaken s) :
    exec .warmReset s = .next { beginWarmReset s with indexPointer := 5 } :=
  congrArg Host.Outcome.next (takeCommand_taken htaken _)

/-- Settles O45: the command's two outcomes, the clearing point, and the test for the end. -/
theorem warmResetPhases : Obligations.WarmResetPhases := by
  unfold Obligations.WarmResetPhases
  intro s open_ ends
  have hends : ∀ x, x.warm = .closing → ends x (warmStep x) := by
    intro x hclosing
    refine ⟨fun hopen => warmStep_closing_open hclosing (rowsClosed_eq_false hopen), fun hopen => ?_⟩
    rw [warmStep_closing_closed hclosing (rowsClosed_eq_true hopen)]
    exact ⟨fun p => PerPort.get_map _ _ _, rfl⟩
  refine ⟨fun htaken => ⟨fun hbus => ?_, fun hbus => ?_⟩, warmStep_idle, hends s, fun hwaiting => ?_⟩
  · rw [exec_warmReset htaken, beginWarmReset, if_neg (by simpa using hbus)]
  · rw [exec_warmReset htaken, beginWarmReset, if_pos (by simpa using hbus)]
  · refine ⟨clearAll s, ?_, clearAll_port s, fun w => ?_, fun c => counterValue_clearAll,
      snapshotValue_clearAll s, rfl⟩
    · rw [warmStep_waiting hwaiting, ← warmStep_closing (s := clearAll s) rfl]
      exact hends _ rfl
    · exact offWindow_get w

end Sys2Proof.Machine
end

section
/-! PROOF. The register file: commands and registers read back from their bytes (R170, R172, R174),
settings (R172), refused writes (R174, R177), windows (R67, R68), flags and masks (R177, R178). -/

set_option Elab.async false

namespace Sys2Proof.Machine

/-! ### Registers whose writes have a row of their own -/

/-- The registers whose write is a command of its own (R172). -/
def ownsRow : Register → Bool
  | .deviceFlags | .deviceMask | .command | .eventMask _ | .staging _ _ | .control _ => true
  | _ => false

theorem ownsRow_registerAt (index : Byte) : ownsRow (registerAt index) = hasOwnWriteRow index := by
  revert index
  decide

/-- The registers of the settings (R172). -/
def isSetting : Register → Bool
  | .discardSetting | .holdTime | .interval | .threshold | .streakLimit | .pagePolicy | .pullIn
  | .limit _ => true
  | _ => false

theorem isSetting_registerAt (index : Byte) :
    isSetting (registerAt index) = true ↔
      (0x06 ≤ index.toNat ∧ index.toNat ≤ 0x0C) ∨ (0x10 ≤ index.toNat ∧ index.toNat ≤ 0x13) := by
  revert index
  decide

/-! ### Commands as bytes -/

theorem commandOfByte_unknown {value : Byte} (h : namesNoCommand value = true) :
    commandOfByte value = .unknownCommand value := by
  revert value
  decide

theorem commandOfWrite_plain {index : Byte} (h : hasOwnWriteRow index = false) (value : Byte) :
    commandOfWrite index value = .registerWrite index value := by
  rw [← ownsRow_registerAt] at h
  unfold commandOfWrite
  generalize registerAt index = x at *
  cases x with
  | deviceFlags | deviceMask | command | eventMask p | staging w f | control w => cases h
  | _ => rfl

/-- Settles O8: each command's byte is decoded by its code and argument, each register by its index. -/
theorem registerWritesDecodeEncode : Obligations.RegisterWritesDecodeEncode := by
  unfold Obligations.RegisterWritesDecodeEncode
  refine ⟨fun i index v hform hwrite => ?_, fun x => registerAt_index x, fun c => ?_⟩
  · cases i with
    | enable p | drain p | revoke p | clearDoubt p =>
      cases hwrite
      fin_cases p <;> rfl
    | refreshPause | refreshResume | clearCounters | warmReset =>
      cases hwrite
      rfl
    | unknownCommand value =>
      cases hwrite
      exact commandOfByte_unknown hform
    | deviceFlagsWrite value | deviceFlagMaskWrite value =>
      cases hwrite
      rfl
    | windowStagingWrite w f value =>
      cases hwrite
      rw [commandOfWrite, registerAt_index _ Register.noConfusion]
    | windowControlWrite w value =>
      cases hwrite
      rw [commandOfWrite, registerAt_index _ Register.noConfusion]
    | eventMaskWrite p value =>
      cases hwrite
      rw [commandOfWrite, registerAt_index _ Register.noConfusion]
    | registerWrite index value =>
      cases hwrite
      exact commandOfWrite_plain (by simpa [WellFormed] using hform) v
    | _ => cases hwrite
  · exact BitVec.ofNat_add (counterIndex c) 1

/-! ### Settings -/

theorem writeEffect_plain {index : Byte} (h : hasOwnWriteRow index = false) (v : Byte) (s : State) :
    writeEffect (registerAt index) v s = writeSetting (registerAt index) v s := by
  rw [← ownsRow_registerAt] at h
  unfold writeEffect
  generalize registerAt index = x at *
  cases x with
  | deviceFlags | deviceMask | command | eventMask p | staging w f | control w => cases h
  | _ => rfl

theorem writeSetting_same {x : Register} (h : isSetting x = false) (v : Byte) (s : State) :
    writeSetting x v s = s := by
  cases x with
  | discardSetting | holdTime | interval | threshold | streakLimit | pagePolicy | pullIn | limit p =>
    cases h
  | _ => rfl

/-- An index as the register of its number. -/
theorem registerAt_of_toNat {index : Byte} {n : Nat} (h : index.toNat = n) :
    registerAt index = registerAt (BitVec.ofNat 8 n) := by
  rw [← h, BitVec.ofNat_toNat, BitVec.setWidth_eq]

theorem registerAt_limit {index : Byte} {p : Port} (h : index.toNat = 0x10 + p.val) :
    registerAt index = .limit p := by
  rw [registerAt_of_toNat h]
  exact registerAt_index (.limit p) Register.noConfusion

theorem policyCode_bit (v : Byte) :
    policyCode (if v.getLsbD 0 then .close else .leaveOpen) = v &&& 1 := by
  revert v
  decide

theorem bitByte_bit (v : Byte) : bitByte 0 (v.getLsbD 0) = v &&& 1 := by
  revert v
  decide

/-- A byte written at an index without a row of its own is a setting's, or is ignored (R170). -/
theorem exec_registerWrite {s : State} (hpower : s.powerOnAsserted = false) {index : Byte}
    (h : hasOwnWriteRow index = false) (v : Byte) :
    exec (.registerWrite index v) s =
      .next { writeSetting (registerAt index) v s with indexPointer := index + 1 } := by
  change execRegisterWrite index v s = _
  unfold execRegisterWrite
  rw [if_neg (by simp [hpower]), writeEffect_plain h]

/-- Settles O48: each setting's register stores the clamped value, and no other register stores any. -/
theorem settingsStoreAdjustedValues : Obligations.SettingsStoreAdjustedValues := by
  unfold Obligations.SettingsStoreAdjustedValues
  intro s index v hpower hplain within stored
  have hclamp : ∀ lo hi : Byte, lo.toNat ≤ hi.toNat → clampByte lo hi v = within lo.toNat hi.toNat :=
    fun lo hi h => clampByte_eq lo hi v h
  have hignored : ¬ (0x06 ≤ index.toNat ∧ index.toNat ≤ 0x0C) →
      ¬ (0x10 ≤ index.toNat ∧ index.toNat ≤ 0x13) → isSetting (registerAt index) = false := fun h k =>
    Bool.eq_false_iff.mpr fun hset => ((isSetting_registerAt index).mp hset).elim h k
  refine ⟨_, exec_registerWrite hpower hplain v, ?_, ?_, ?_, ?_, ?_, ?_, ?_, fun p hp => ?_, fun h k => ?_,
    ?_, ?_, ?_, ?_, ?_, ?_, fun p hp => ?_⟩
  · rintro rfl
    exact congrArg (fun x => stored { s.settings with discard := x }) (hclamp 1 255 (by decide))
  · rintro rfl
    exact congrArg (fun x => stored { s.settings with holdTime := x }) (hclamp 1 200 (by decide))
  · rintro rfl
    exact congrArg (fun x => stored { s.settings with interval := x }) (hclamp 10 159 (by decide))
  · rintro rfl
    exact congrArg (fun x => stored { s.settings with threshold := x }) (hclamp 1 8 (by decide))
  · rintro rfl
    exact congrArg (fun x => stored { s.settings with streakLimit := x }) (hclamp 0 15 (by decide))
  · rintro rfl
    rfl
  · rintro rfl
    rfl
  · rw [registerAt_limit hp]
    exact congrArg (fun x : Byte => ({ s.setPort p { s.port p with limit := x } with
      indexPointer := index + 1 } : State)) (hclamp 2 10 (by decide))
  · rw [writeSetting_same (hignored h k)]
  · rintro rfl
    exact hclamp 1 255 (by decide)
  · rintro rfl
    exact hclamp 1 200 (by decide)
  · rintro rfl
    exact hclamp 10 159 (by decide)
  · rintro rfl
    exact hclamp 1 8 (by decide)
  · rintro rfl
    exact hclamp 0 15 (by decide)
  · rintro (rfl | rfl)
    · exact policyCode_bit v
    · exact bitByte_bit v
  · rw [readIndex, registerAt_limit hp]
    exact (congrArg PortUnit.limit (PerPort.get_set_same s.ports p _)).trans (hclamp 2 10 (by decide))

/-! ### Bytes written -/

/-- A command that is a data byte written is taken with an effect, or under power-on reset not at all
(R168, R169, R186). -/
theorem exec_write {c : Instr} {index v : Byte} (h : writeOfCommand c = some (index, v)) :
    ∃ effect : State → State, ∀ s,
      exec c s = .next (if s.powerOnAsserted then s else { effect s with indexPointer := index + 1 }) := by
  cases c with
  | enable p | drain p | revoke p | clearDoubt r | refreshPause | refreshResume | clearCounters
  | warmReset | unknownCommand x | deviceFlagsWrite x | deviceFlagMaskWrite x
  | windowStagingWrite w f x | windowControlWrite w x | eventMaskWrite p x | registerWrite n x =>
    cases h
    exact ⟨_, fun s => rfl⟩
  | _ => cases h

/-- A command byte that names no command, or finds the command state BUSY, is refused (R174, R177). -/
theorem exec_refused {s : State} {c : Instr} {v : Byte} (hpower : s.powerOnAsserted = false)
    (hform : WellFormed c = true) (hwrite : writeOfCommand c = some (Register.command.index, v))
    (hrefused : s.warm ≠ .idle ∨ ∃ x, c = .unknownCommand x) :
    exec c s = .next { s with deviceFlags := s.deviceFlags ||| 0x80, indexPointer := 5 } := by
  have hbusy : (∀ x, c ≠ .unknownCommand x) → s.warm ≠ .idle := fun h =>
    hrefused.resolve_right fun ⟨x, hx⟩ => h x hx
  cases c with
  | enable p | drain p | revoke p | clearDoubt r | refreshPause | refreshResume | clearCounters
  | warmReset =>
    exact congrArg Host.Outcome.next (takeCommand_busy hpower (hbusy fun x => Instr.noConfusion) _)
  | unknownCommand x => exact congrArg Host.Outcome.next (takeWrite_eq hpower .command refuseCommand)
  | deviceFlagsWrite x | deviceFlagMaskWrite x => cases hwrite
  | windowStagingWrite w f x =>
    exact absurd (congrArg Prod.fst (Option.some.inj hwrite)) (Register.staging_index_ne w f)
  | windowControlWrite w x =>
    exact absurd (congrArg Prod.fst (Option.some.inj hwrite)) (Register.control_index_ne w)
  | eventMaskWrite p x =>
    exact absurd (congrArg Prod.fst (Option.some.inj hwrite)) (Register.eventMask_index_ne p)
  | registerWrite n x =>
    cases hwrite
    cases hform
  | _ => cases hwrite

/-- Settles O44: a refusal sets the one flag, and under power-on reset nothing is taken. -/
theorem refusedWritesChangeOneFlagOrNothing : Obligations.RefusedWritesChangeOneFlagOrNothing := by
  unfold Obligations.RefusedWritesChangeOneFlagOrNothing
  intro s c
  refine ⟨fun hpower hform ⟨v, hwrite⟩ hrefused => exec_refused hpower hform hwrite hrefused,
    fun hpower hc => ?_⟩
  obtain ⟨index, v, hwrite⟩ | ⟨k, rfl⟩ | ⟨v, rfl⟩ := hc
  · obtain ⟨effect, hexec⟩ := exec_write hwrite
    rw [hexec, if_pos hpower]
  · exact congrArg Host.Outcome.next (if_pos hpower)
  · exact congrArg Host.Outcome.next (if_pos hpower)

/-! ### Windows -/

theorem extractLsb'_append_low (hi lo : Byte) : (hi ++ lo).extractLsb' 0 8 = lo := by
  rw [BitVec.extractLsb'_append_eq_of_add_le (by decide), BitVec.extractLsb'_eq_self]

theorem extractLsb'_append_high (hi lo : Byte) : (hi ++ lo).extractLsb' 8 8 = hi := by
  rw [BitVec.extractLsb'_append_eq_of_le (by decide), BitVec.extractLsb'_eq_self]

/-- A staging byte is read back (R67). -/
theorem byte_withByte_same (x : WindowRecord) (f : StagingField) (v : Byte) :
    (x.withByte f v).byte f = v := by
  cases f with
  | baseLow | limitLow => exact extractLsb'_append_low _ v
  | baseHigh | limitHigh => exact extractLsb'_append_high v _
  | rights => rfl

/-- A staging write leaves the other bytes of the record (R67). -/
theorem byte_withByte_ne (x : WindowRecord) {f g : StagingField} (v : Byte) (h : g ≠ f) :
    (x.withByte f v).byte g = x.byte g := by
  cases f with
  | baseLow => cases g with
    | baseLow => exact absurd rfl h
    | baseHigh => exact extractLsb'_append_high _ v
    | _ => rfl
  | baseHigh => cases g with
    | baseHigh => exact absurd rfl h
    | baseLow => exact extractLsb'_append_low v _
    | _ => rfl
  | limitLow => cases g with
    | limitLow => exact absurd rfl h
    | limitHigh => exact extractLsb'_append_high _ v
    | _ => rfl
  | limitHigh => cases g with
    | limitHigh => exact absurd rfl h
    | limitLow => exact extractLsb'_append_low v _
    | _ => rfl
  | rights => cases g with
    | rights => exact absurd rfl h
    | _ => rfl

theorem withByte_attributes (x : WindowRecord) (f : StagingField) (v : Byte) :
    (x.withByte f v).prefetchable = x.prefetchable ∧ (x.withByte f v).claimable = x.claimable := by
  cases f <;> exact ⟨rfl, rfl⟩

theorem inUse_iff (s : State) (w : WindowId) :
    inUse s w = true ↔
      (∃ e ∈ s.table, e.window = w) ∨ (∃ p, ∃ q ∈ (s.port p).queue, q.window = w) ∨
        ∃ p h, (s.port p).hold = some h ∧ h.window = w := by
  unfold inUse
  rw [Bool.or_eq_true, any_allPorts, ← exists_or]
  refine or_congr (by simp) (exists_congr fun p => ?_)
  cases (s.port p).hold with
  | none => simp
  | some h => simp

/-- The bits of a control byte are its four flags (R70, R172). -/
theorem control_bits (prefetch claim staged used : Bool) :
    let control := bitByte 0 prefetch ||| bitByte 1 claim ||| bitByte 6 staged ||| bitByte 7 used
    control.getLsbD 0 = prefetch ∧ control.getLsbD 1 = claim ∧
      (∀ i, 2 ≤ i → i ≤ 5 → control.getLsbD i = false) ∧ control.getLsbD 6 = staged ∧
      control.getLsbD 7 = used := by
  revert prefetch claim staged used
  decide

/-- Settles O46: the one window is replaced, by its bytes or as a whole. -/
theorem windowsAreStagedAndActivated : Obligations.WindowsAreStagedAndActivated := by
  unfold Obligations.WindowsAreStagedAndActivated
  intro s w f v hpower
  refine ⟨⟨_, congrArg Host.Outcome.next (takeWrite_eq hpower _ _), ?_⟩, ?_, ?_⟩
  · have hwindow : (stageByte s w f v).window w =
        { s.window w with staging := (s.window w).staging.withByte f v, staged := true } :=
      Oct.get_set_same _ _ _
    have hread : ∀ g, readRegister (stageByte s w f v) (.staging w g) =
        ((s.window w).staging.withByte f v).byte g := fun g =>
      congrArg (fun x : Window => x.staging.byte g) hwindow
    obtain ⟨hprefetch, hclaim⟩ := withByte_attributes (s.window w).staging f v
    refine ⟨?_, ?_, ?_, fun g hg => ?_, ?_, ?_, ?_⟩
    · exact (congrArg Window.active hwindow).trans rfl
    · exact (congrArg Window.staged hwindow).trans rfl
    · exact (hread f).trans (byte_withByte_same _ f v)
    · exact (hread g).trans (byte_withByte_ne _ v hg)
    · exact (congrArg (fun x : Window => x.staging.prefetchable) hwindow).trans hprefetch
    · exact (congrArg (fun x : Window => x.staging.claimable) hwindow).trans hclaim
    · exact congrArg (fun x => { s with
        windows := s.windows.set w x, indexPointer := (Register.staging w f).index + 1 }) hwindow.symm
  · exact congrArg Host.Outcome.next (takeWrite_eq hpower _ _)
  · rw [← inUse_iff]
    obtain ⟨hprefetch, hclaim, hzero, hstaged, hused⟩ := control_bits (s.window w).staging.prefetchable
      (s.window w).staging.claimable (s.window w).staged (inUse s w)
    exact ⟨hprefetch, hclaim, hzero, hstaged, Eq.congr_left hused⟩

/-! ### Flags and masks -/

/-- Two bytes of flags share a bit (R166, R178). -/
theorem and_ne_zero_iff {n : Nat} (x y : BitVec n) :
    x &&& y ≠ 0 ↔ ∃ i < n, x.getLsbD i = true ∧ y.getLsbD i = true := by
  rw [← not_iff_not, not_not]
  push Not
  constructor
  · intro h i _ hx hy
    have hbit := congrArg (BitVec.getLsbD · i) h
    simp [hx, hy] at hbit
  · intro h
    refine BitVec.eq_of_getLsbD_eq fun i hi => ?_
    simpa [BitVec.getLsbD_and] using h i hi

/-- Settles O47: each write stores its byte, and a line follows the flags its mask lets through. -/
theorem flagAndMaskWrites : Obligations.FlagAndMaskWrites := by
  unfold Obligations.FlagAndMaskWrites
  intro s p v hpower masked quieted
  have htaken : ∀ x effect, takeWrite s x effect = { effect s with indexPointer := x.index + 1 } :=
    takeWrite_eq hpower
  refine ⟨congrArg Host.Outcome.next (htaken _ _), congrArg Host.Outcome.next (htaken _ _), ?_,
    congrArg Host.Outcome.next (htaken _ _), ?_, ?_⟩
  · change (!s.powerOnAsserted && s.deviceFlags &&& v != 0) = true ↔ _
    rw [hpower, ← and_ne_zero_iff]
    simp
  · have hunit : quieted.port p = { s.port p with eventMask := v.setWidth 5 } :=
      PerPort.get_set_same _ _ _
    rw [attention, hunit, bne_iff_ne, and_ne_zero_iff]
    refine exists_congr fun i => and_congr_right fun hi => ?_
    simp [hi]
  · exact congrArg Host.Outcome.next (if_neg (by simp [hpower]))

end Sys2Proof.Machine
end

section
/-! PROOF. One step, and the resets: the front command (the queue), the timebase, the state after reset,
and the two edges of power-on reset (R186, R187). -/

set_option Elab.async false

namespace Sys2Proof.Machine

/-! ### One step -/

/-- Settles O1: no table word spells a command, and a step takes the front one. -/
theorem stepRunsFrontCommand : Obligations.StepRunsFrontCommand := by
  unfold Obligations.StepRunsFrontCommand
  exact fun _ _ _ _ _ => ⟨rfl, rfl⟩

/-- Settles O2: a step with no command waiting is `tick`, whose timers are the entries', ports' and
ranks'. -/
theorem idleStepCountsTimers : Obligations.IdleStepCountsTimers := by
  unfold Obligations.IdleStepCountsTimers
  intro s hidle
  refine ⟨tick s, ?_, rfl, tick_port s, tick_rank s, rfl⟩
  unfold step
  rw [hidle]

/-! ### The state after reset -/

theorem reset_port (p : Port) : State.reset.port p = idlePort := by
  fin_cases p <;> rfl

theorem reset_rank (r : RankId) : State.reset.rank r = rankAtRelease 2 := by
  fin_cases r <;> rfl

theorem reset_hold (p : Port) : (State.reset.port p).hold = none := by
  rw [reset_port]
  rfl

theorem reset_queue (p : Port) : (State.reset.port p).queue = [] := by
  rw [reset_port]
  rfl

theorem reset_slots : slotsDistinct State.reset :=
  List.nodup_nil

theorem reset_reserveLaw : reserveLaw State.reset := by
  unfold reserveLaw
  decide

theorem reset_queueLaw : queueLaw State.reset := by
  refine ⟨fun p => ?_, fun a ha => nomatch ha⟩
  rw [reset_port]
  exact ⟨Nat.zero_le 8, rfl, rfl⟩

theorem reset_claimLaw : claimLaw State.reset :=
  ⟨reset_slots, fun _ => ⟨Nat.zero_le 1, fun _ he => nomatch he⟩⟩

theorem reset_holdsDisjoint : holdsDisjoint State.reset := by
  intro p q h k _ hh
  exact nomatch (reset_hold p).symm.trans hh

theorem reset_exclusionLaw : exclusionLaw State.reset := by
  intro p q h _ hh
  exact nomatch (reset_hold p).symm.trans hh

theorem reset_portStateLaw : portStateLaw State.reset :=
  ⟨reset_slots, fun _ he => (nomatch he), fun _ he => (nomatch he), fun p =>
    ⟨fun _ => ⟨fun _ he => (nomatch he), reset_hold p⟩, fun _ => ⟨fun _ he => (nomatch he), reset_hold p⟩⟩⟩

theorem reset_balanceLaw : balanceLaw State.reset := by
  refine ⟨by decide, fun r => ?_, fun r k hk => nomatch hk⟩
  rw [reset_rank]
  exact ⟨fun h => (nomatch h), fun _ => rfl⟩

theorem reset_rowLaw : rowLaw State.reset := by
  intro r
  refine rowLawAt_of_idle ?_ ?_ ?_ ?_ (fun x hx => nomatch hx)
  all_goals
    rw [reset_rank]
    rfl

theorem reset_rangeLaw : rangeLaw State.reset := by
  refine ⟨by decide, by decide, by decide, by decide, by decide, by decide, fun p => ?_⟩
  rw [reset_port]
  decide

theorem reset_stagedLaw : stagedLaw State.reset := by
  intro w _
  change (State.reset.windows.get w).staging = (State.reset.windows.get w).active
  rw [show State.reset.windows = Oct.all offWindow from rfl, offWindow_get]
  rfl

theorem reset_fitLaw : fitLaw State.reset := by
  refine ⟨reset_slots, fun e he => (nomatch he), fun p q hq => ?_, fun a ha => (nomatch ha)⟩
  rw [reset_queue] at hq
  cases hq

theorem reset_coherenceLaw : coherenceLaw State.reset :=
  ⟨reset_fitLaw, fun _ he => (nomatch he), fun _ he => (nomatch he), fun _ ha => (nomatch ha)⟩

/-- Settles O4: with the table, queues, holds and bus empty each law holds at once. -/
theorem resetMeetsEveryLaw : Obligations.ResetMeetsEveryLaw := by
  unfold Obligations.ResetMeetsEveryLaw
  exact ⟨rfl, reset_reserveLaw, ⟨reset_slots, fun _ he => (nomatch he)⟩,
    ⟨reset_slots, fun _ he => (nomatch he)⟩, reset_queueLaw,
    ⟨reset_slots, reset_queueLaw, fun _ he => (nomatch he)⟩, reset_holdsDisjoint, reset_claimLaw,
    reset_exclusionLaw, reset_portStateLaw, reset_balanceLaw, reset_rowLaw, fun h => (nomatch h),
    reset_rangeLaw, reset_stagedLaw, reset_fitLaw, reset_coherenceLaw⟩

/-! ### Power-on reset -/

theorem atPowerOn_port (s : State) (sel : Bool) (a b : BitVec 2) (p : Port) :
    (atPowerOn s sel a b).port p = linkOutside (s.port p) :=
  PerPort.get_map _ _ _

theorem atPowerOn_counters (s : State) (sel : Bool) (a b : BitVec 2) (c : CounterId) :
    counterValue (atPowerOn s sel a b) c = 0 ∧ snapshotValue (atPowerOn s sel a b) c = 0 := by
  cases c with
  | port p k =>
    change ((atPowerOn s sel a b).port p).counters.get k = 0 ∧
      ((atPowerOn s sel a b).port p).snapshots.get k = 0
    rw [atPowerOn_port]
    exact ⟨zeroPortCounters_get k, zeroPortCounters_get k⟩
  | device k => exact ⟨zeroDeviceCounters_get k, zeroDeviceCounters_get k⟩
  | row r => fin_cases r <;> exact ⟨rfl, rfl⟩

theorem atPowerOn_window (s : State) (sel : Bool) (a b : BitVec 2) (w : WindowId) :
    (atPowerOn s sel a b).window w = offWindow :=
  offWindow_get w

/-- After a power-on reset no window is in use (R70). -/
theorem inUse_atPowerOn (s : State) (sel : Bool) (a b : BitVec 2) (w : WindowId) :
    inUse (atPowerOn s sel a b) w = false := by
  refine Bool.eq_false_iff.mpr fun h => ?_
  obtain ⟨e, he, -⟩ | ⟨p, q, hq, -⟩ | ⟨p, x, hx, -⟩ := (inUse_iff _ w).mp h
  · cases he
  · rw [atPowerOn_port] at hq
    cases hq
  · rw [atPowerOn_port] at hx
    cases hx

/-- With no flag pending the attention line is not asserted (R166). -/
theorem attention_of_flags {s : State} {p : Port} (h : (s.port p).flags = 0) : attention s p = false := by
  simp [attention, h]

/-- Settles O5: the part at its power-on values, the reset input asserted. -/
theorem powerOnAssertAbandonsEverything : Obligations.PowerOnAssertAbandonsEverything := by
  unfold Obligations.PowerOnAssertAbandonsEverything
  intro s
  refine ⟨_, rfl, rfl, rfl, rfl, rfl, atPowerOn_port s false 0 0, fun r => ?_, fun a => rfl, rfl, rfl, rfl,
    fun p => ?_, fun a => rfl, rfl, fun i v => rfl, fun c p tag hframe => ?_⟩
  · fin_cases r <;> exact ⟨rfl, rfl, rfl, rfl, rfl⟩
  · have hflags : ((atPowerOn s false 0 0).port p).flags = 0 := by
      rw [atPowerOn_port]
      rfl
    exact attention_of_flags hflags
  · obtain ⟨judge, hexec⟩ := exec_frame hframe
      { atPowerOn s false 0 0 with powerOnAsserted := true, powerOns := s.powerOns + 1, deviceFlags := 0 }
    rw [hexec]
    exact congrArg Host.Outcome.next (endFrame_ignored tag judge (.inl rfl))

/-- Settles O6: the part at its power-on values for the sampled inputs. -/
theorem powerOnReleaseSetsDefaults : Obligations.PowerOnReleaseSetsDefaults := by
  unfold Obligations.PowerOnReleaseSetsDefaults
  intro s sel codeA codeB
  refine ⟨atPowerOn s sel codeA codeB, rfl, rfl, fun a => ?_, fun r code h => ?_, rfl, rfl, rfl, rfl, rfl, rfl,
    atPowerOn_counters s sel codeA codeB, rfl, rfl, rfl, fun p => ?_, fun w => ?_, fun a => rfl, rfl⟩
  · exact beq_iff_eq
  · have hrank : (atPowerOn s sel codeA codeB).rank r = rankAtRelease code := by
      obtain ⟨rfl, rfl⟩ | ⟨rfl, rfl⟩ := h <;> rfl
    rw [hrank]
    exact ⟨rfl, rfl, rfl, rfl, rfl, rfl, rfl, rfl, rfl, rfl, rfl, rfl⟩
  · rw [atPowerOn_port]
    exact ⟨rfl, rfl, rfl, rfl, rfl, rfl, rfl, rfl, rfl, rfl, rfl, rfl, rfl⟩
  · rw [atPowerOn_window]
    exact ⟨rfl, rfl, rfl, inUse_atPowerOn s sel codeA codeB w⟩

end Sys2Proof.Machine
end

section
/-! PROOF. The window step (R65), answer frames (R151, R152) and request frames (R151, R152). -/

set_option Elab.async false

namespace Sys2Proof.Machine

/-! ### The window step -/

theorem contains_iff (x : WindowRecord) (addr : Addr) :
    x.contains addr = true ↔
      x.base.toNat * 65536 ≤ addr.toNat ∧ addr.toNat ≤ x.limit.toNat * 65536 + 65535 := by
  simp only [WindowRecord.contains, Bool.and_eq_true, decide_eq_true_eq]
  omega

/-- The lowest-numbered window that contains the address (R65). -/
theorem findWindow_eq_some_iff (s : State) (addr : Addr) (w : WindowId) :
    findWindow s addr = some w ↔
      (s.window w).active.contains addr = true ∧
        ∀ v, v < w → ¬ (s.window v).active.contains addr = true := by
  have hlist : allWindows = List.finRange 8 := by decide
  rw [findWindow, hlist, List.find?_eq_some_iff_getElem]
  refine and_congr_right fun _ => ?_
  simp only [List.getElem_finRange, List.length_finRange]
  constructor
  · rintro ⟨i, hi, rfl, hlow⟩ v hv
    simpa using hlow v.val hv
  · intro hlow
    refine ⟨w.val, w.isLt, rfl, fun j hj => ?_⟩
    simpa using hlow ⟨j, by omega⟩ hj

/-- The two-bit code of a port's right (R64, R172). -/
theorem right_code (x : WindowRecord) (p : Port) :
    (x.rights.extractLsb' (2 * p.val) 2).toNat = x.rights.toNat / 4 ^ p.val % 4 := by
  rw [BitVec.extractLsb'_toNat, Nat.shiftRight_eq_div_pow, pow_mul]
  rfl

theorem right_eq (x : WindowRecord) (p : Port) :
    x.right p =
      if x.rights.extractLsb' (2 * p.val) 2 = 1#2 then .read
      else if x.rights.extractLsb' (2 * p.val) 2 = 2#2 then .readWrite else .none := by
  simp only [WindowRecord.right, ← right_code, BitVec.toNat_eq]
  rfl

theorem right_eq_readWrite_iff (x : WindowRecord) (p : Port) :
    x.right p = .readWrite ↔ x.rights.extractLsb' (2 * p.val) 2 = 2#2 := by
  rw [right_eq]
  split_ifs with h1 h2
  · simp [h1]
  · exact iff_of_true rfl h2
  · exact iff_of_false not_false h2

theorem right_ne_none_iff (x : WindowRecord) (p : Port) :
    x.right p ≠ .none ↔
      x.rights.extractLsb' (2 * p.val) 2 = 1#2 ∨ x.rights.extractLsb' (2 * p.val) 2 = 2#2 := by
  rw [right_eq]
  split_ifs with h1 h2
  · exact iff_of_true Right.noConfusion (.inl h1)
  · exact iff_of_true Right.noConfusion (.inr h2)
  · exact iff_of_false (absurd rfl) (not_or.mpr ⟨h1, h2⟩)

theorem allows_iff (x : WindowRecord) (p : Port) (k : Purpose) :
    allows (x.right p) x.claimable k = true ↔
      match k with
      | .fetch =>
        x.rights.extractLsb' (2 * p.val) 2 = 1#2 ∨ x.rights.extractLsb' (2 * p.val) 2 = 2#2
      | .write => x.rights.extractLsb' (2 * p.val) 2 = 2#2
      | .claim => x.rights.extractLsb' (2 * p.val) 2 = 2#2 ∧ x.claimable = true := by
  cases k with
  | fetch => exact bne_iff_ne.trans (right_ne_none_iff x p)
  | write => exact beq_iff_eq.trans (right_eq_readWrite_iff x p)
  | claim =>
    rw [allows, Bool.and_eq_true, beq_iff_eq, right_eq_readWrite_iff]

theorem decodeWindow_eq_some_iff (s : State) (p : Port) (k : Purpose) (addr : Addr) (w : WindowId) :
    decodeWindow s p k addr = some w ↔
      findWindow s addr = some w ∧
        allows ((s.window w).active.right p) (s.window w).active.claimable k = true := by
  unfold decodeWindow
  cases findWindow s addr with
  | none => simp
  | some v =>
    dsimp only
    split
    next h =>
      rw [Option.some_inj]
      exact ⟨fun hv => ⟨hv, hv ▸ h⟩, fun hv => hv.1⟩
    next h =>
      rw [Option.some_inj]
      exact iff_of_false (fun hv => nomatch hv) fun ⟨hv, hallows⟩ => h (hv ▸ hallows)

/-- Settles O10: the lowest window found, and its right. -/
theorem lowestWindowDecides : Obligations.LowestWindowDecides := by
  unfold Obligations.LowestWindowDecides
  intro s p k addr w record inside code
  rw [decodeWindow_eq_some_iff, findWindow_eq_some_iff, allows_iff]
  simp only [contains_iff]
  cases k <;> exact Iff.rfl

/-! ### Answer frames -/

theorem xorBytes_append_self (bs : List Byte) : xorBytes (bs ++ [xorBytes bs]) = 0 := by
  unfold xorBytes
  rw [List.foldl_append]
  exact BitVec.xor_self

/-- Bit `i` of the poison mask is the mark of word `i` (R144). -/
theorem testBit_poisonMask (words : List ReadWord) (i : Nat) :
    (poisonMask words).testBit i = (words[i]?.map (·.poison)).getD false := by
  induction words generalizing i with
  | nil => simp [poisonMask]
  | cons w ws ih =>
    cases i with
    | zero => cases hp : w.poison <;> simp [poisonMask, hp, Nat.testBit_zero]
    | succ i =>
      have hhalf : poisonMask (w :: ws) / 2 = poisonMask ws := by
        rw [poisonMask]
        split <;> omega
      rw [Nat.testBit_succ, hhalf, ih]
      rfl

theorem mask_bytes (x : BitVec 16) : x.extractLsb' 8 8 ++ x.extractLsb' 0 8 = x := by
  refine BitVec.eq_of_getLsbD_eq fun i hi => ?_
  rw [BitVec.getLsbD_append]
  split
  next h => simp [h]
  next h => simp [show i - 8 < 8 by omega, show 8 + (i - 8) = i by omega]

theorem length_bytesOfReadWord (w : ReadWord) : (bytesOfReadWord w).length = 9 := rfl

/-- Settles O9: the six bytes of every answer, the mask's bits and the body's length. -/
theorem answerFramesAreChecked : Obligations.AnswerFramesAreChecked := by
  unfold Obligations.AnswerFramesAreChecked
  intro a
  refine ⟨xorBytes_append_self [a.codeAndDetail.1, a.codeAndDetail.2, a.tag, a.mask.extractLsb' 0 8,
    a.mask.extractLsb' 8 8], rfl, ?_, fun hdata => ?_, ?_⟩
  · rintro tag words i rfl - hi
    change (BitVec.getLsbD ((BitVec.ofNat 16 (poisonMask words)).extractLsb' 8 8 ++
      (BitVec.ofNat 16 (poisonMask words)).extractLsb' 0 8) i) = _
    rw [mask_bytes, BitVec.getLsbD_ofNat, testBit_poisonMask]
    simp [hi]
  · cases a with
    | data tag words => exact absurd rfl (hdata tag words)
    | _ =>
      exact ⟨(by decide : (0 : BitVec 16).extractLsb' 0 8 = 0),
        (by decide : (0 : BitVec 16).extractLsb' 8 8 = 0)⟩
  · cases a with
    | data tag words =>
      have hbody : (words.flatMap bytesOfReadWord).length = 9 * words.length := by
        simp [List.length_flatMap, length_bytesOfReadWord, Nat.mul_comm]
      change (words.flatMap bytesOfReadWord).length + 6 = 6 + 9 * words.length
      rw [hbody, Nat.add_comm]
    | _ => rfl

end Sys2Proof.Machine
end

section
/-! PROOF. Request frames read back from their bytes, and the header check (R151, R152). -/

set_option Elab.async false

namespace Sys2Proof.Machine

/-! ### The header check -/

theorem zero_xor_byte (b : Byte) : 0 ^^^ b = b :=
  BitVec.zero_xor

theorem foldl_xor (bs : List Byte) (a : Byte) : bs.foldl (· ^^^ ·) a = a ^^^ xorBytes bs := by
  induction bs generalizing a with
  | nil => exact BitVec.xor_zero.symm
  | cons b bs ih =>
    unfold xorBytes
    rw [List.foldl_cons, List.foldl_cons, ih, ih (0 ^^^ b), zero_xor_byte, BitVec.xor_assoc]

theorem xorBytes_cons (b : Byte) (bs : List Byte) : xorBytes (b :: bs) = b ^^^ xorBytes bs := by
  unfold xorBytes
  rw [List.foldl_cons, zero_xor_byte]
  exact foldl_xor bs b

/-- One changed byte changes the XOR of all by its difference. -/
theorem xorBytes_set {bs : List Byte} {k : Nat} {a : Byte} (h : bs[k]? = some a) (b : Byte) :
    xorBytes (bs.set k b) = xorBytes bs ^^^ (a ^^^ b) := by
  induction bs generalizing k with
  | nil => cases h
  | cons x xs ih =>
    cases k with
    | zero =>
      cases h
      rw [List.set_cons_zero, xorBytes_cons, xorBytes_cons, BitVec.xor_comm a (xorBytes xs),
        BitVec.xor_assoc, ← BitVec.xor_assoc a a b, BitVec.xor_self, BitVec.zero_xor, BitVec.xor_comm]
    | succ k =>
      rw [List.set_cons_succ, xorBytes_cons, xorBytes_cons, ih h, BitVec.xor_assoc]

theorem xorBytes_set_ne_zero {bs : List Byte} {k : Nat} {a b : Byte} (hcheck : xorBytes bs = 0)
    (h : bs[k]? = some a) (hne : a ≠ b) : xorBytes (bs.set k b) ≠ 0 := by
  rw [xorBytes_set h, hcheck, zero_xor_byte]
  exact fun hzero => hne (BitVec.xor_eq_zero_iff.mp hzero)

/-! ### Addresses and words -/

theorem addrOfBytes_addrByte (a : Addr) :
    addrOfBytes (addrByte a 0) (addrByte a 1) (addrByte a 2) (addrByte a 3) = a := by
  unfold addrOfBytes addrByte
  refine BitVec.eq_of_getLsbD_eq fun i hi => ?_
  have hbit : ∀ j k, j < 8 → k + j = i → (a.extractLsb' k 8).getLsbD j = a.getLsbD i := by
    rintro j k hj rfl
    simp [hj]
  simp only [BitVec.getLsbD_append]
  split_ifs
  · exact hbit _ _ (by omega) (by omega)
  · exact hbit _ _ (by omega) (by omega)
  · exact hbit _ _ (by omega) (by omega)
  · exact hbit _ _ (by omega) (by omega)

/-- Bit `i` of a byte put together from bits. -/
theorem getLsbD_byteOfBits (f : Fin 8 → Bool) (i : Fin 8) : (byteOfBits f).getLsbD i.val = f i := by
  have hbit : ∀ j : Fin 8, (if f j then BitVec.ofNat 8 (2 ^ j.val) else 0 : Byte).getLsbD i.val =
      (f j && decide (i = j)) := by
    intro j
    cases f j with
    | false => simp
    | true =>
      rw [if_pos rfl, BitVec.getLsbD_ofNat, Nat.testBit_two_pow]
      simp [Fin.ext_iff, eq_comm]
  unfold byteOfBits
  simp only [BitVec.getLsbD_or, hbit]
  fin_cases i <;> simp

theorem wordOfBytes_bytesOfWord (w : LinkWord) : wordOfBytes (bytesOfWord w) = w := by
  have hbyte : ∀ i : Fin 8, ({ data := (bytesOfWord w).getD i.val 0
                               parity := ((bytesOfWord w).getD 8 0).getLsbD i.val
                               mask := ((bytesOfWord w).getD 9 0).getLsbD i.val } : LinkByte) = w.get i := by
    intro i
    have hparity : ((bytesOfWord w).getD 8 0).getLsbD i.val = (w.get i).parity :=
      getLsbD_byteOfBits (fun i => (w.get i).parity) i
    have hmask : ((bytesOfWord w).getD 9 0).getLsbD i.val = (w.get i).mask :=
      getLsbD_byteOfBits (fun i => (w.get i).mask) i
    rw [hparity, hmask]
    fin_cases i <;> rfl
  unfold wordOfBytes
  simp only [hbyte]
  rfl

/-- The words of a data part are read back from its bytes (R151). -/
theorem wordsOfBytes_bytesOfWords (data : List LinkWord) :
    wordsOfBytes data.length (data.flatMap bytesOfWord) = data := by
  induction data with
  | nil => rfl
  | cons w ws ih =>
    have hlength : (bytesOfWord w).length = 10 := rfl
    rw [List.length_cons, wordsOfBytes, List.flatMap_cons, List.take_left' hlength,
      List.drop_left' hlength, wordOfBytes_bytesOfWord, ih]

theorem length_bytesOfWords (data : List LinkWord) :
    (data.flatMap bytesOfWord).length = 10 * data.length := by
  have hlength : ∀ w, (bytesOfWord w).length = 10 := fun _ => rfl
  simp [List.length_flatMap, hlength, Nat.mul_comm]

/-! ### Frames -/

/-- The command of a frame that passes the header check, by its kind code (R151). -/
def frameOfKind (p : Port) (kind len tag : Byte) (addr : Addr) (rest : List Byte) : Instr :=
  if kind = codeFetch then .fetch p tag addr len
  else if kind = codePut then .put p tag addr len (wordsOfBytes len.toNat rest)
  else if kind = codePutSync then .putSync p tag addr len (wordsOfBytes len.toNat rest)
  else if kind = codeClaim then .claim p tag addr len
  else if kind = codeDrop then .drop p tag addr len
  else if kind = codeStatus then .status p tag addr len
  else .unnamedKindFrame p kind tag addr len

theorem xorBytes_headerBytes (kind len tag : Byte) (addr : Addr) :
    xorBytes (headerBytes kind len tag addr) = 0 :=
  xorBytes_append_self _

/-- A frame with a good header and the size it calls for is decoded by its kind code (R151, R152). -/
theorem frameOfBytes_header (p : Port) {kind len : Byte} (tag : Byte) (addr : Addr) {rest : List Byte}
    (hsize : 8 + rest.length = frameSize kind len) :
    frameOfBytes p (headerBytes kind len tag addr ++ rest) = frameOfKind p kind len tag addr rest := by
  have hlength : (headerBytes kind len tag addr ++ rest).length = 8 + rest.length := by
    rw [List.length_append]
    rfl
  have hgood : ¬ ((headerBytes kind len tag addr ++ rest).length < 8 ∨
      (headerBytes kind len tag addr ++ rest).length ≠ frameSize kind len ∨
      xorBytes ((headerBytes kind len tag addr ++ rest).take 8) ≠ 0) := by
    rw [hlength, List.take_left' (by rfl), xorBytes_headerBytes]
    simp [← hsize]
  unfold frameOfBytes
  refine (if_neg hgood).trans ?_
  exact congrArg (fun a => frameOfKind p kind len tag a rest) (addrOfBytes_addrByte addr)

/-- A frame that fails the header check is garbled, with the tag it holds (R152). -/
theorem frameOfBytes_failed (p : Port) {bs : List Byte} (h : xorBytes (bs.take 8) ≠ 0) :
    frameOfBytes p bs = .garbledFrame p (bs.getD 2 0) :=
  if_pos (.inr (.inr h))

/-- The bytes of a well-formed frame command are a header and the data part it calls for, of the
command's kind (R151). -/
theorem bytesOfFrame_eq_some {i : Instr} {p : Port} {bs : List Byte} (hform : WellFormed i = true)
    (h : bytesOfFrame i = some (p, bs)) :
    ∃ kind len tag addr rest, bs = headerBytes kind len tag addr ++ rest ∧
      8 + rest.length = frameSize kind len ∧ frameOfKind p kind len tag addr rest = i := by
  cases i with
  | fetch q tag addr len =>
    cases h
    exact ⟨codeFetch, len, tag, addr, [], (List.append_nil _).symm, rfl, rfl⟩
  | claim q tag addr len =>
    cases h
    exact ⟨codeClaim, len, tag, addr, [], (List.append_nil _).symm, rfl, rfl⟩
  | drop q tag addr len =>
    cases h
    exact ⟨codeDrop, len, tag, addr, [], (List.append_nil _).symm, rfl, rfl⟩
  | status q tag addr len =>
    cases h
    exact ⟨codeStatus, len, tag, addr, [], (List.append_nil _).symm, rfl, rfl⟩
  | put q tag addr len data =>
    cases h
    have hdata : data.length = len.toNat := by simpa [WellFormed] using hform
    refine ⟨codePut, len, tag, addr, data.flatMap bytesOfWord, rfl, ?_, ?_⟩
    · rw [length_bytesOfWords, hdata]
      rfl
    · exact congrArg (Instr.put p tag addr len) (hdata ▸ wordsOfBytes_bytesOfWords data)
  | putSync q tag addr len data =>
    cases h
    have hdata : data.length = len.toNat := by simpa [WellFormed] using hform
    refine ⟨codePutSync, len, tag, addr, data.flatMap bytesOfWord, rfl, ?_, ?_⟩
    · rw [length_bytesOfWords, hdata]
      rfl
    · exact congrArg (Instr.putSync p tag addr len) (hdata ▸ wordsOfBytes_bytesOfWords data)
  | unnamedKindFrame q kind tag addr len =>
    cases h
    have hnone : ∀ c : Byte, 1 ≤ c.toNat → c.toNat ≤ 6 → kind ≠ c := by
      rintro c hlo hhi rfl
      have hkind : kind.toNat = 0 ∨ 7 ≤ kind.toNat := by simpa [WellFormed, namesNoKind] using hform
      omega
    refine ⟨kind, len, tag, addr, [], (List.append_nil _).symm, ?_, ?_⟩
    · exact (if_neg (not_or.mpr ⟨hnone codePut (by decide) (by decide),
        hnone codePutSync (by decide) (by decide)⟩)).symm
    · unfold frameOfKind
      rw [if_neg (hnone codeFetch (by decide) (by decide)),
        if_neg (hnone codePut (by decide) (by decide)),
        if_neg (hnone codePutSync (by decide) (by decide)),
        if_neg (hnone codeClaim (by decide) (by decide)),
        if_neg (hnone codeDrop (by decide) (by decide)),
        if_neg (hnone codeStatus (by decide) (by decide))]
  | _ => cases h

/-- Settles O7: the header passes its check as sent, and fails it with any one byte changed. -/
theorem framesDecodeEncode : Obligations.FramesDecodeEncode := by
  unfold Obligations.FramesDecodeEncode
  intro i p bs hform hbytes
  obtain ⟨kind, len, tag, addr, rest, rfl, hsize, hkind⟩ := bytesOfFrame_eq_some hform hbytes
  refine ⟨(frameOfBytes_header p tag addr hsize).trans hkind, fun k b hk hne => ?_⟩
  refine frameOfBytes_failed p ?_
  have hlength : (headerBytes kind len tag addr).length = 8 := rfl
  have hk' : k < (headerBytes kind len tag addr).length := by rw [hlength]; exact hk
  rw [List.set_append_left _ _ hk', List.take_left' (by rw [List.length_set, hlength])]
  refine xorBytes_set_ne_zero (xorBytes_headerBytes kind len tag addr) (List.getElem?_eq_getElem hk') ?_
  rintro rfl
  exact hne (by rw [List.getElem?_append_left hk', List.getElem?_eq_getElem hk'])

end Sys2Proof.Machine
end
